-- ==== Sys2Proof/Word.lean ====
section
/-! DEFINITION. The words the interface moves (R4, R5): request and response words of 32 bits, channels and
Color6 bytes of 8 bits, 2-bit channel fields. Bit 0 is the least significant bit (R6) and every value is
unsigned (R7). -/

namespace Sys2Proof

/-- A request word REQ or a response word RESP (R5). -/
abbrev Word := BitVec 32

/-- A channel of a Color24 value (R11), or a Color6 byte (R12). -/
abbrev Byte := BitVec 8

/-- A channel field of a Color6 byte (R12). -/
abbrev Field := BitVec 2

/-- A Color24 value: a triple of unsigned 8-bit channels (R11). -/
structure Color24 where
  r : Byte
  g : Byte
  b : Byte
deriving DecidableEq, Repr

end Sys2Proof
end

