-- ==== Sys2Proof/Syntax.lean ====
section
/-! DEFINITION. The two operations of the block (R1, R2), one constructor for each row of the opcode table. -/

namespace Sys2Proof

/-- An operation a request selects. The operands are the fields of the request word exactly as they stand,
unsigned 8 bits each (R36). -/
inductive Instr where
  /-- QUANTIZE r, g, b: one Color24 value to one Color6 value (R49). -/
  | quantize (r g b : Byte)
  /-- EXPAND c6: one Color6 byte, marked or not, to one Color24 value (R58). -/
  | expand (c6 : Byte)
deriving DecidableEq, Repr

end Sys2Proof
end

