-- ==== Sys2Proof/WellFormed.lean ====
section
/-! DEFINITION. Which operations are well formed, and the written form of a request with its operand ranges
(R44). -/

namespace Sys2Proof

/-- Every QUANTIZE operand is legal (R11, R34) and every EXPAND operand is legal, marked or unmarked
(R14, R35). The operand types already exclude what a field cannot hold, so nothing is left to check. -/
def Instr.wellFormed : Instr → Bool
  | .quantize _ _ _ => true
  | .expand _ => true

/-- A request as a caller writes it, one of three forms, with the numbers as written (R44). There are no
pseudo-instructions (R45). -/
inductive SourceLine where
  /-- `QUANTIZE r, g, b` -/
  | quantize (r g b : Nat)
  /-- `EXPAND c6` -/
  | expand (c6 : Nat)
  /-- `.word w`: exactly the word `w`, legal or not -/
  | word (w : Nat)
deriving DecidableEq, Repr

/-- The operand ranges of R44: channels and Color6 bytes 0–255, raw words 0–0xFFFFFFFF. -/
def SourceLine.wellFormed : SourceLine → Bool
  | .quantize r g b => decide (r ≤ 255) && decide (g ≤ 255) && decide (b ≤ 255)
  | .expand c6 => decide (c6 ≤ 255)
  | .word w => decide (w ≤ 0xFFFFFFFF)

end Sys2Proof
end

