-- ==== Sys2Proof/Decode.lean ====
section
/-! DEFINITION. The request decoder, total on every 32-bit word (R37), and the encoder, written from the same
formats (R34, R35). -/

namespace Sys2Proof

/-- Why a request word selects no operation (R66). Both are raised by decoding alone (R65). -/
inductive DecodeError where
  /-- OP is neither 0x01 nor 0x02 (R67). -/
  | illegalOp
  /-- OP is 0x02 and a reserved bit is set (R68). -/
  | reservedNonzero
deriving DecidableEq, Repr

/-- OP of QUANTIZE (R33). -/
def opQuantize : Byte := 0x01#8

/-- OP of EXPAND (R33). -/
def opExpand : Byte := 0x02#8

/-- OP, bits [31:24] (R32). -/
def reqOp (w : Word) : Byte := w.extractLsb' 24 8

/-- RED, bits [23:16] (R34). -/
def reqRed (w : Word) : Byte := w.extractLsb' 16 8

/-- GREEN, bits [15:8] (R34). -/
def reqGreen (w : Word) : Byte := w.extractLsb' 8 8

/-- BLUE, bits [7:0] (R34). -/
def reqBlue (w : Word) : Byte := w.extractLsb' 0 8

/-- RSV of an EXPAND request, bits [23:8] (R35). -/
def reqReserved (w : Word) : BitVec 16 := w.extractLsb' 8 16

/-- C6, bits [7:0] (R35). -/
def reqC6 (w : Word) : Byte := w.extractLsb' 0 8

/-- Decoding a request word (R37). The OP check comes first (R69). -/
def decode (w : Word) : Except DecodeError Instr :=
  if reqOp w = opQuantize then .ok (.quantize (reqRed w) (reqGreen w) (reqBlue w))
  else if reqOp w = opExpand then
    if reqReserved w = 0#16 then .ok (.expand (reqC6 w)) else .error .reservedNonzero
  else .error .illegalOp

/-- The request word of an operation (R34, R35). -/
def encode : Instr → Word
  | .quantize r g b => opQuantize ++ r ++ g ++ b
  | .expand c6 => opExpand ++ 0#16 ++ c6

/-- What the decoder reads from a request whose low `nbits` bits are `w`, the others 0. A request is one
indivisible 32-bit word (R25, R39), so there is no byte order and anything longer is no request. -/
def decodeTableWord (nbits w : Nat) : Option Instr :=
  if nbits ≤ 32 then
    match decode (BitVec.ofNat 32 (w % 2 ^ nbits)) with
    | .ok i => some i
    | .error _ => none
  else none

end Sys2Proof
end

