-- ==== Sys2Proof/Machine/Operands.lean ====
section
/-! DEFINITION. The fields of colours: channel truncation, bit replication, the layout of a Color6 byte and the
order of a Color24 value in a 24-bit field. -/

namespace Sys2Proof.Machine

/-- Channel truncation: `v[7:6]` (R48). The channel is unsigned, so no sign is copied (90_conflicts C4). -/
def trunc2 (v : Byte) : Field := v.extractLsb' 6 2

/-- Bit replication: `v2 | v2<<2 | v2<<4 | v2<<6` at 8 bits (R57). -/
def rep2 (v2 : Field) : Byte :=
  v2.setWidth 8 ||| v2.setWidth 8 <<< 2 ||| v2.setWidth 8 <<< 4 ||| v2.setWidth 8 <<< 6

/-- MARKER of every Color6 value the block produces (R12, R13). -/
def marker : Field := 0b11#2

/-- A Color6 byte of three channel fields: marker, blue, green, red from the top (R12). -/
def packColor6 (r2 g2 b2 : Field) : Byte := marker ++ b2 ++ g2 ++ r2

/-- The red field of a Color6 byte, bits [1:0] (R12). -/
def c6Red (c6 : Byte) : Field := c6.extractLsb' 0 2

/-- The green field of a Color6 byte, bits [3:2] (R12). -/
def c6Green (c6 : Byte) : Field := c6.extractLsb' 2 2

/-- The blue field of a Color6 byte, bits [5:4] (R12). -/
def c6Blue (c6 : Byte) : Field := c6.extractLsb' 4 2

/-- The marker field of a Color6 byte, bits [7:6] (R12). -/
def c6Marker (c6 : Byte) : Field := c6.extractLsb' 6 2

/-- The 24-bit notation of a Color24 value, 0xRRGGBB (R9), which is also the order of the EXPAND result (R42). -/
def rgb24 (c : Color24) : BitVec 24 := c.r ++ c.g ++ c.b

end Sys2Proof.Machine
end

