-- ==== Sys2Proof/Machine/Flags.lean ====
section
/-! DEFINITION. The response word: its layout (R40), its status fields, and the three kinds of response
(R41, R42, R43). -/

namespace Sys2Proof.Machine

/-- The layout of a response word: ERR, ECODE, reserved zeros, MARKER_OK, DATA (R40). -/
def packResponse (err : BitVec 1) (ecode : BitVec 3) (markerOk : BitVec 1) (data : BitVec 24) : Word :=
  err ++ ecode ++ 0#3 ++ markerOk ++ data

/-- ERR, bit 31 (R40). -/
def respErr (w : Word) : BitVec 1 := w.extractLsb' 31 1

/-- ECODE, bits [30:28] (R40). -/
def respEcode (w : Word) : BitVec 3 := w.extractLsb' 28 3

/-- The reserved bits [27:25] (R40). -/
def respReserved (w : Word) : BitVec 3 := w.extractLsb' 25 3

/-- MARKER_OK, bit 24 (R40). -/
def respMarkerOk (w : Word) : BitVec 1 := w.extractLsb' 24 1

/-- DATA, bits [23:0] (R40). -/
def respData (w : Word) : BitVec 24 := w.extractLsb' 0 24

/-- `marker_ok` of a Color6 byte (R59). -/
def markerOk (c6 : Byte) : BitVec 1 := if c6Marker c6 = marker then 1#1 else 0#1

/-- The error codes (R66). -/
def ecodeOf : DecodeError → BitVec 3
  | .illegalOp => 1#3
  | .reservedNonzero => 2#3

/-- The error a code names; 0 is no error and 3 to 7 are never produced (R66). -/
def errorOfCode (code : BitVec 3) : Option DecodeError :=
  if code = 1#3 then some .illegalOp
  else if code = 2#3 then some .reservedNonzero
  else none

/-- The QUANTIZE response (R41). -/
def quantizeResponse (c6 : Byte) : Word := packResponse 0#1 0#3 1#1 (0#16 ++ c6)

/-- The EXPAND response (R42). -/
def expandResponse (ok : BitVec 1) (c : Color24) : Word := packResponse 0#1 0#3 ok (rgb24 c)

/-- The error response, which carries no part of the request (R43). -/
def errorResponse (e : DecodeError) : Word := packResponse 1#1 (ecodeOf e) 0#1 0#24

/-- The fault of the transaction a response word ends: none where ERR = 0, else the reason ECODE names
(R72). -/
def transactionFault (w : Word) : Option DecodeError :=
  if respErr w = 1#1 then errorOfCode (respEcode w) else none

end Sys2Proof.Machine
end

