-- ==== Sys2Proof/Config.lean ====
section
/-! DEFINITION. What the machine fixes and what the spec leaves open. The spec leaves no parameter open (R5):
its widths are the types of `Word.lean`. The one open value is what the response latch holds while it is
undefined. -/

namespace Sys2Proof

/-- FREE VALUE. What `RESP` holds after the `n`-th event that leaves it undefined: the acceptance of a request
(R77) or a reset (R79). It has no body, so a statement that holds of it holds of every value. -/
opaque Config.undefinedResp : Nat → Word

end Sys2Proof
end

