-- ==== Sys2Proof/Machine/State.lean ====
section
/-! DEFINITION. The state of the block (R10), the caller's side of the interface as plain data, the state
after reset, and the reasons a step can stop. -/

namespace Sys2Proof.Machine

/-- Who moves next, and how. The spec lets the block accept and complete when it may (R77, R78) and lets the
caller present, read and reset at any time (R86); a list of turns is one way those choices can fall. -/
inductive Turn where
  /-- The block gets the chance to complete the request in progress (R78). -/
  | block
  /-- The caller presents a request word (R77). -/
  | present (w : Word)
  /-- The caller reads `RESP_VALID` (R86). -/
  | readValid
  /-- The caller reads `RESP` (R84, R86). -/
  | readResp
  /-- The caller asserts reset (R79). -/
  | reset
deriving DecidableEq, Repr

/-- What the caller got back from one read (R86). -/
inductive CallerRead where
  | valid (v : Bool)
  | resp (w : Word)
deriving DecidableEq, Repr

/-- The whole state of the block is `resp`, `respValid` and `pending` (R10, R22). The last three fields are
the model's own: the inputs still to come, what the caller got back, and the counter of free values. -/
structure State where
  /-- `RESP`, the response latch (R19). It holds no defined value while `respValid` is false. -/
  resp : Word
  /-- `RESP_VALID` (R20). -/
  respValid : Bool
  /-- `PENDING`, the request accepted and not yet completed (R10). -/
  pending : Option Word
  /-- MODEL'S OWN (DESIGN CHOICE, log entry 1): the turns still to come, first one first. -/
  turns : List Turn
  /-- MODEL'S OWN (DESIGN CHOICE, log entry 9): what the caller has read, oldest first. -/
  reads : List CallerRead
  /-- MODEL'S OWN (DESIGN CHOICE, log entry 5): how many free values have been drawn. -/
  draws : Nat
deriving DecidableEq, Repr

/-- The state after reset: `RESP_VALID` = 0 and `PENDING` empty (R10, R20, R79). `RESP` has no reset value
in the spec (R19); 0 is a DESIGN CHOICE (log entry 4), and no read can reach it. -/
def State.reset : State :=
  { resp := 0#32, respValid := false, pending := none, turns := [], reads := [], draws := 0 }

/-- The reasons a step stops with a fault. The two decode errors are not among them: the spec gives each an
effect, so they are next states (R70). -/
inductive Fault where
  /-- Raised by the caller's read of `RESP` while `RESP_VALID` = 0: the read has no defined result (R20,
  R84). Safe: the model stops where the hardware would hand over some undefined word. -/
  | earlyRead
deriving DecidableEq, Repr

/-- The reasons a step is given no meaning. -/
inductive Refusal where
  /-- An operation the model gives no meaning yet; raised by an arm of `exec` only. Safe: the model stops. -/
  | notModelled (mnemonic : String)
  /-- Raised by a read of `RESP` that meets a 1 in the reserved bits [27:25], which the spec says always
  read 0. Safe: the model stops, and no run from reset gets there. -/
  | reservedResponseBits
  /-- Raised by a read of `RESP` that meets an ECODE of 3 to 7, which the spec says is never produced (R66).
  Safe: the model stops, and no run from reset gets there. -/
  | reservedEcode
deriving DecidableEq, Repr

/-- The three outcomes of a step of this machine. -/
abbrev Result := Host.Outcome State Fault Refusal

end Sys2Proof.Machine
end

