-- ==== Sys2Proof/Machine/Ops.lean ====
section
/-! DEFINITION. The named operations over the state: answering a transaction, raising an error, accepting a
request, reset, and the caller's reads. The block has no memory and no general registers (R15, R21), so there
are no others. -/

namespace Sys2Proof.Machine

/-- `RESP <- w`, `RESP_VALID <- 1`, `PENDING <- empty`, in one indivisible update (R8, R78). -/
def State.respond (s : State) (w : Word) : State :=
  { s with resp := w, respValid := true, pending := none }

/-- Error entry: the error response is written as for any completed transaction, and nothing else is saved,
masked or changed (R70). There is no return from an error (R71). -/
def State.raiseError (s : State) (e : DecodeError) : State := s.respond (errorResponse e)

/-- `RESP` becomes undefined: it takes a free value (R77, R79; log entry 5). -/
def State.forgetResp (s : State) : State :=
  { s with resp := Config.undefinedResp s.draws, draws := s.draws + 1 }

/-- ACCEPT: `PENDING <- w`, `RESP_VALID <- 0`, and `RESP` becomes undefined (R77). -/
def State.accept (s : State) (w : Word) : State :=
  { s.forgetResp with pending := some w, respValid := false }

/-- RESET: `RESP_VALID <- 0`, `PENDING <- empty`, and `RESP` is left undefined (R79). A request in progress
is abandoned (R80). -/
def State.resetBlock (s : State) : State :=
  { s.forgetResp with pending := none, respValid := false }

/-- What the caller gets back from a read is kept for it (R86). -/
def State.record (s : State) (r : CallerRead) : State := { s with reads := s.reads ++ [r] }

/-- The caller's read of `RESP_VALID`, which it may make at any time (R86) and which changes nothing in the
block (R27). -/
def State.readValid (s : State) : State := s.record (.valid s.respValid)

/-- The caller's read of `RESP`: a fault while `RESP_VALID` = 0 (R20, R84), else the response word, with no
side effect in the block (R27). A word the spec says is never produced is refused (93_implementation_defined). -/
def State.readResp (s : State) : Result :=
  if s.respValid = false then .fault .earlyRead
  else if respReserved s.resp ≠ 0#3 then .refused .reservedResponseBits
  else if 3#3 ≤ respEcode s.resp then .refused .reservedEcode
  else .next (s.record (.resp s.resp))

/-- Whether the block, not the caller, moves now: on its own turn, while a presented request waits for the
one in progress (R77), and when no turn is left. -/
def State.blockMoves (s : State) : Bool :=
  match s.turns with
  | [] => true
  | .block :: _ => true
  | .present _ :: _ => s.pending.isSome
  | .readValid :: _ => false
  | .readResp :: _ => false
  | .reset :: _ => false

/-- The state in which the block moves: its own turn is used up, a waiting request keeps waiting. -/
def State.useBlockTurn (s : State) : State :=
  match s.turns with
  | .block :: rest => { s with turns := rest }
  | _ => s

end Sys2Proof.Machine
end

