-- ==== Sys2Proof/Machine/Expand.lean ====
section
/-! DEFINITION. EXPAND: Color6 to Color24 by bit replication (R57, R58). -/

namespace Sys2Proof.Machine

/-- The colour function of EXPAND (R58). Bits [7:6] do not enter it (R59). -/
def expandColor (c6 : Byte) : Color24 :=
  { r := rep2 (c6Red c6), g := rep2 (c6Green c6), b := rep2 (c6Blue c6) }

/-- EXPAND c6 (R58). An unmarked byte is no error (R14, R59). -/
def execExpand (c6 : Byte) (s : State) : Result :=
  .next (s.respond (expandResponse (markerOk c6) (expandColor c6)))

end Sys2Proof.Machine
end

