-- ==== Sys2Proof/Machine/Quantize.lean ====
section
/-! DEFINITION. QUANTIZE: Color24 to Color6 by truncation (R48, R49). -/

namespace Sys2Proof.Machine

/-- The colour function of QUANTIZE (R49): every channel loses its low 6 bits, without rounding (R50). -/
def quantizeColor (c : Color24) : Byte := packColor6 (trunc2 c.r) (trunc2 c.g) (trunc2 c.b)

/-- QUANTIZE r, g, b (R49). -/
def execQuantize (r g b : Byte) (s : State) : Result :=
  .next (s.respond (quantizeResponse (quantizeColor { r := r, g := g, b := b })))

end Sys2Proof.Machine
end

