-- ==== Sys2Proof/Machine/Dispatch.lean ====
section
/-! DEFINITION. One arm for each operation of the opcode table. -/

namespace Sys2Proof.Machine

def exec (i : Instr) (s : State) : Host.Outcome State Fault Refusal :=
  match i with
  | .quantize r g b => Sys2Proof.Machine.execQuantize r g b s
  | .expand c6 => Sys2Proof.Machine.execExpand c6 s

end Sys2Proof.Machine
end

