-- ==== Sys2Proof/Machine/Transaction.lean ====
section
/-! DEFINITION. COMPLETE (R78), the turns that make up a step, and the response as a function of the request
word alone (R22, R78). -/

namespace Sys2Proof.Machine

/-- COMPLETE for the request `w`: decode it, then execute the selected operation or raise the selected error
(R78). -/
def complete (w : Word) (s : State) : Result :=
  match decode w with
  | .ok i => exec i s
  | .error e => .next (s.raiseError e)

/-- The block's move: COMPLETE when a request is in progress, else nothing is enabled and the block waits
(log entry 3). -/
def moveBlock (s : State) : Result :=
  match s.pending with
  | some w => complete w s
  | none => .next s

/-- One turn. A request presented while another is in progress waits, unaccepted, while the block moves
(R77). -/
def takeTurn (s : State) : Result :=
  match s.turns with
  | [] => moveBlock s
  | .block :: rest => moveBlock { s with turns := rest }
  | .present w :: rest =>
    match s.pending with
    | none => .next (State.accept { s with turns := rest } w)
    | some _ => moveBlock s
  | .readValid :: rest => .next (State.readValid { s with turns := rest })
  | .readResp :: rest => State.readResp { s with turns := rest }
  | .reset :: rest => .next (State.resetBlock { s with turns := rest })

/-- `response(w)`: the response word of a request word, a function of that word alone (R22, R78). It is the
clear form of what `complete` writes. -/
def response (w : Word) : Word :=
  match decode w with
  | .ok (.quantize r g b) => quantizeResponse (quantizeColor { r := r, g := g, b := b })
  | .ok (.expand c6) => expandResponse (markerOk c6) (expandColor c6)
  | .error e => errorResponse e

/-- A state in which `w` has been accepted and the block has the next turn. -/
def placeRequest (s : State) (w : Word) : State :=
  { s with pending := some w, respValid := false, turns := .block :: s.turns }

/-- A caller that keeps the rule of R84: it presents each request, lets the block answer it, and reads the
response, one request after another. -/
def callerTurns : List Word → List Turn
  | [] => []
  | w :: ws => .present w :: .block :: .readResp :: callerTurns ws

end Sys2Proof.Machine
end

