-- ==== Sys2Proof/Machine/Step.lean ====
section
/-! DEFINITION. One step of the machine: the next turn (R77, R78, R79, R86). -/

namespace Sys2Proof.Machine

/-- One step: the next turn is taken. -/
def step (s : State) : Host.Outcome State Fault Refusal := takeTurn s

/-- `s` with the request whose low `nbits` bits are `w` (the others 0) accepted, and the block to move: the
very next step completes it. It stands for the caller's presentation and its ACCEPT step. -/
def State.withFetchWord (s : State) (nbits w : Nat) : State :=
  placeRequest s (BitVec.ofNat 32 (w % 2 ^ nbits))

end Sys2Proof.Machine
end

