-- ==== Sys2Proof/Machine/Assembler.lean ====
section
/-! DEFINITION. The assembler of R44: a written request to its word. What the rule leaves to the reader
(blanks, letter case of digits) is log entry 12. -/

namespace Sys2Proof.Machine

/-- Why a written line gives no word. -/
inductive AsmError where
  /-- The line has none of the three forms of R44. -/
  | syntaxError
  /-- An operand is outside its range; it is refused, never truncated (R44). -/
  | outOfRange
deriving DecidableEq, Repr

/-- The word of a written request (R44). -/
def assemble (l : SourceLine) : Except AsmError Word :=
  if l.wellFormed then
    match l with
    | .quantize r g b => .ok (encode (.quantize (BitVec.ofNat 8 r) (BitVec.ofNat 8 g) (BitVec.ofNat 8 b)))
    | .expand c6 => .ok (encode (.expand (BitVec.ofNat 8 c6)))
    | .word w => .ok (BitVec.ofNat 32 w)
  else .error .outOfRange

/-- A letter in lower case: mnemonics are case-insensitive (R44). -/
def lowerCase (c : Char) : Char :=
  if 65 ≤ c.toNat ∧ c.toNat ≤ 90 then Char.ofNat (c.toNat + 32) else c

/-- A blank between the parts of a line. -/
def isBlank (c : Char) : Bool := c == ' ' || c == '\t' || c == '\r'

/-- The line without its comment: the text after `;` (R44). -/
def stripComment (cs : List Char) : List Char := cs.takeWhile (fun c => c != ';')

/-- The text without blanks at either end. -/
def trimBlanks (cs : List Char) : List Char :=
  ((cs.dropWhile isBlank).reverse.dropWhile isBlank).reverse

/-- The parts of a text between its commas. -/
def splitCommas : List Char → List (List Char)
  | [] => [[]]
  | c :: cs =>
    if c = ',' then [] :: splitCommas cs
    else
      match splitCommas cs with
      | [] => [[c]]
      | part :: parts => (c :: part) :: parts

/-- The value of one digit in a base of at most 16. -/
def digitValue (base : Nat) (c : Char) : Option Nat :=
  let n := c.toNat
  let value :=
    if 48 ≤ n ∧ n ≤ 57 then n - 48
    else if 97 ≤ n ∧ n ≤ 102 then n - 87
    else if 65 ≤ n ∧ n ≤ 70 then n - 55
    else 16
  if value < base then some value else none

/-- The digits of a number, most significant first, added to the value `acc` read so far. -/
def readDigits (base : Nat) : Nat → List Char → Option Nat
  | acc, [] => some acc
  | acc, c :: cs =>
    match digitValue base c with
    | some d => readDigits base (acc * base + d) cs
    | none => none

/-- A number, decimal or `0x` hexadecimal (R44). -/
def readNumber (cs : List Char) : Option Nat :=
  match cs with
  | [] => none
  | ['0', 'x'] => none
  | '0' :: 'x' :: ds => readDigits 16 0 ds
  | ds => readDigits 10 0 ds

/-- A line that holds a request, its comment and outer blanks already removed (R44). -/
def parseRequest (cs : List Char) : Option SourceLine :=
  let mnemonic := (cs.takeWhile (fun c => !isBlank c)).map lowerCase
  let operands := (splitCommas (cs.dropWhile (fun c => !isBlank c))).map (fun part => readNumber (trimBlanks part))
  match operands with
  | [some r, some g, some b] =>
    if mnemonic = ['q', 'u', 'a', 'n', 't', 'i', 'z', 'e'] then some (.quantize r g b) else none
  | [some n] =>
    if mnemonic = ['e', 'x', 'p', 'a', 'n', 'd'] then some (.expand n)
    else if mnemonic = ['.', 'w', 'o', 'r', 'd'] then some (.word n)
    else none
  | _ => none

/-- One line of text: no word where it holds only blanks and a comment, else one request's word (R44). -/
def assembleText (cs : List Char) : Except AsmError (Option Word) :=
  match trimBlanks (stripComment cs) with
  | [] => .ok none
  | c :: body =>
    match parseRequest (c :: body) with
    | none => .error .syntaxError
    | some l =>
      match assemble l with
      | .ok w => .ok (some w)
      | .error e => .error e

/-- The request words of a text, one request a line, in order (R44); the first bad line refuses the text. -/
def assembleLines : List (List Char) → Except AsmError (List Word)
  | [] => .ok []
  | l :: ls =>
    match assembleText l with
    | .error e => .error e
    | .ok w? =>
      match assembleLines ls with
      | .error e => .error e
      | .ok ws => .ok (w?.toList ++ ws)

end Sys2Proof.Machine
end

