-- ==== Sys2Proof/Machine/System.lean ====
section
/-! DEFINITION. Several instances of the block in one system (R75): each is a state of its own. -/

namespace Sys2Proof.Machine

/-- Instance `k` of a system takes one step. Instances share no state (R75). Where there is no instance `k`
nothing happens; where its step stops, so does this one. -/
def stepInstance (k : Nat) (system : List State) : Host.Outcome (List State) Fault Refusal :=
  match system[k]? with
  | none => .next system
  | some s =>
    match step s with
    | .next t => .next (system.set k t)
    | .fault r => .fault r
    | .refused r => .refused r

end Sys2Proof.Machine
end

