-- ==== Sys2Proof/Safety.lean ====
section
/-! DEFINITION. What claims are stated in: the invariant, which step a state takes, the end of a run and its
observation. -/

namespace Sys2Proof.Machine

/-- The latch invariant: a request in progress excludes a valid response (R10, R20), and a valid response is
the response of some request (R19, R78). -/
structure State.Inv (s : State) : Prop where
  pending_invalid : s.pending.isSome = true → s.respValid = false
  valid_response : s.respValid = true → ∃ w, s.resp = response w

/-- The next step is COMPLETE (R78). -/
def State.completes (s : State) : Bool := s.blockMoves && s.pending.isSome

/-- The next step is ACCEPT (R77). -/
def State.accepts (s : State) : Bool :=
  match s.turns with
  | .present _ :: _ => s.pending.isNone
  | _ => false

/-- The next step is RESET (R79). -/
def State.resets (s : State) : Bool :=
  match s.turns with
  | .reset :: _ => true
  | _ => false

/-- The caller is to present a further request. -/
def Turn.isPresent : Turn → Bool
  | .present _ => true
  | .block => false
  | .readValid => false
  | .readResp => false
  | .reset => false

/-- No request is in progress and the caller presents no further one: what R87 asks of the state a run ends in. -/
def State.settled (s : State) : Bool := s.pending.isNone && !(s.turns.any Turn.isPresent)

/-- The words that `pick` takes from each of `n` steps, seen before and after, in order; they end where a step
stops. -/
def collect (pick : State → State → List Word) : Nat → State → List Word
  | 0, _ => []
  | n + 1, s =>
    match step s with
    | .next t => pick s t ++ collect pick n t
    | .fault _ => []
    | .refused _ => []

/-- The observation of `n` steps: the response words of the transactions completed in them, in order (R87).
A request abandoned by reset has none. -/
def observation : Nat → State → List Word := collect fun s t => if s.completes then [t.resp] else []

/-- The requests accepted in `n` steps, in order (R77). -/
def accepted : Nat → State → List Word := collect fun s t => if s.accepts then t.pending.toList else []

/-- The requests that resets abandoned in `n` steps, in order (R80). -/
def abandoned : Nat → State → List Word := collect fun s _ => if s.resets then s.pending.toList else []

/-- The run of `n` steps from `s` is over: every request accepted in it, or in progress where it starts, has been
completed, `PENDING` is empty and the caller presents no further request (R87). A request abandoned by reset was
accepted and never completes, so a run that abandons one is not over, then or later. A run that stopped is not over
(log entry 15). -/
def runOver (n : Nat) (s : State) : Bool :=
  match core.run n s with
  | .next t => t.settled && (abandoned n s).isEmpty
  | .fault _ => false
  | .refused _ => false

end Sys2Proof.Machine
end

