-- ==== Sys2Proof/Certificates/Slice0/Obligations.lean ====
section
/-! DEFINITION. The statements for the provers, from the spec's numbered rules. A state is arbitrary unless a
hypothesis says otherwise; `State.Inv` is a hypothesis only where an unreachable state would break the rule, and
`Obligations.InvariantKept` says that every step keeps it. That inputs and the block's moves stand in `turns`, and
that `useBlockTurn` removes a used turn, is the model's form of the interface (log entries 1 and 2), not a rule. -/

open Sys2Proof Sys2Proof.Machine

/-! ## Encoding -/

/-- Decoding the request word of an operation gives the operation back, for every operand (R34, R35, R36). -/
def Obligations.DecodeEncode : Prop :=
  ∀ i : Instr, decode (encode i) = .ok i

/-- A word that decodes to an operation is that operation's request word: no bit is ignored (R34, R35). -/
def Obligations.EncodeDecode : Prop :=
  ∀ (w : Word) (i : Instr), decode w = .ok i → encode i = w

/-- Every word decodes to exactly one of four results, told by where it lies among the numbers below 2^32, with
the operands as its base-256 digits (R33, R34, R35, R37). -/
def Obligations.DecodeByRange : Prop :=
  ∀ w : Word,
    decode w =
      if w.toNat < 2 ^ 24 then .error .illegalOp
      else if w.toNat < 2 ^ 25 then
        .ok (.quantize (BitVec.ofNat 8 (w.toNat / 2 ^ 16)) (BitVec.ofNat 8 (w.toNat / 2 ^ 8))
          (BitVec.ofNat 8 w.toNat))
      else if w.toNat < 2 ^ 25 + 2 ^ 8 then .ok (.expand (BitVec.ofNat 8 w.toNat))
      else if w.toNat < 3 * 2 ^ 24 then .error .reservedNonzero
      else .error .illegalOp

/-- Of the 2^32 request words, 2^24 are QUANTIZE, 2^8 are EXPAND, 2^24 − 2^8 raise RESERVED_NONZERO and
254 × 2^24 raise ILLEGAL_OP (R37). -/
def Obligations.DecodeCounts : Prop :=
  ((Finset.range (2 ^ 32)).filter fun n => ∃ r g b, decode (BitVec.ofNat 32 n) = .ok (.quantize r g b)).card
      = 2 ^ 24 ∧
  ((Finset.range (2 ^ 32)).filter fun n => ∃ c6, decode (BitVec.ofNat 32 n) = .ok (.expand c6)).card = 2 ^ 8 ∧
  ((Finset.range (2 ^ 32)).filter fun n => decode (BitVec.ofNat 32 n) = .error .reservedNonzero).card
      = 2 ^ 24 - 2 ^ 8 ∧
  ((Finset.range (2 ^ 32)).filter fun n => decode (BitVec.ofNat 32 n) = .error .illegalOp).card = 254 * 2 ^ 24

/-- A few words of the spec's vectors decode as their rows say (95: Q11, E10, X1, X8, X11). -/
def Obligations.SampleWordsDecode : Prop :=
  decode 0x014080C0#32 = .ok (.quantize 0x40#8 0x80#8 0xC0#8) ∧
  decode 0x020000F0#32 = .ok (.expand 0xF0#8) ∧
  decode 0x00000000#32 = .error .illegalOp ∧
  decode 0x02800000#32 = .error .reservedNonzero ∧
  decode 0x0300FF00#32 = .error .illegalOp

/-! ## The operations -/

/-- QUANTIZE answers from every state and for every operand, with `0x01000000 | c6` where
`c6 = 0xC0 | b>>6<<4 | g>>6<<2 | r>>6` (R41, R48, R49), and changes nothing but the latch and `PENDING`. -/
def Obligations.QuantizeCompletes : Prop :=
  ∀ (r g b : Byte) (s : State),
    exec (.quantize r g b) s = .next { s with
      resp := 0x01000000#32 |||
        (0xC0#8 ||| (b >>> 6) <<< 4 ||| (g >>> 6) <<< 2 ||| r >>> 6).setWidth 32
      respValid := true
      pending := none }

/-- EXPAND answers from every state and for every operand, marked or not (R42, R57, R58, R59): each channel is
0x55 times its field and bit 24 says whether bits [7:6] are 0b11. It changes nothing but the latch and
`PENDING`. -/
def Obligations.ExpandCompletes : Prop :=
  ∀ (c6 : Byte) (s : State),
    exec (.expand c6) s = .next { s with
      resp := BitVec.ofNat 32
        ((if c6.toNat / 64 = 3 then 2 ^ 24 else 0) + 0x55 * (c6.toNat % 4) * 2 ^ 16 +
          0x55 * (c6.toNat / 4 % 4) * 2 ^ 8 + 0x55 * (c6.toNat / 16 % 4))
      respValid := true
      pending := none }

/-- No operation raises an error for any operand value, from any state (R65). -/
def Obligations.OperandsRaiseNoError : Prop :=
  ∀ (i : Instr) (s : State), ∃ t, exec i s = .next t ∧ t.respValid = true ∧
    respErr t.resp = 0#1 ∧ respEcode t.resp = 0#3 ∧ transactionFault t.resp = none

/-- COMPLETE of a QUANTIZE request, written on the request word: the operands are `req[23:16]`, `req[15:8]`
and `req[7:0]`, of which the top two bits are kept, blue above green above red under the marker (R49). -/
def Obligations.QuantizeRequest : Prop :=
  ∀ (s : State) (w : Word), s.blockMoves = true → s.pending = some w → w.extractLsb' 24 8 = 0x01#8 →
    step s = .next { s.useBlockTurn with
      resp := 0b00000001#8 ++ 0#16 ++ 0b11#2 ++ w.extractLsb' 6 2 ++ w.extractLsb' 14 2 ++ w.extractLsb' 22 2
      respValid := true
      pending := none }

/-- COMPLETE of an EXPAND request, written on the request word: each 2-bit field of `req[5:0]` is copied into
all four 2-bit positions of its channel, and bit 24 says whether `req[7:6]` is 0b11 (R58). -/
def Obligations.ExpandRequest : Prop :=
  ∀ (s : State) (w : Word), s.blockMoves = true → s.pending = some w → w.extractLsb' 8 24 = 0x020000#24 →
    step s = .next { s.useBlockTurn with
      resp := 0b0000000#7 ++ (if w.extractLsb' 6 2 = 0b11#2 then 1#1 else 0#1) ++
        BitVec.replicate 4 (w.extractLsb' 0 2) ++ BitVec.replicate 4 (w.extractLsb' 2 2) ++
        BitVec.replicate 4 (w.extractLsb' 4 2)
      respValid := true
      pending := none }

/-! ## Laws of the colour functions -/

/-- Every Color6 value QUANTIZE produces is marked, and the values it produces are exactly the 64 from 0xC0 to
0xFF (R13). -/
def Obligations.QuantizeMarked : Prop :=
  (∀ c : Color24, (quantizeColor c).extractLsb' 6 2 = 0b11#2) ∧
  (∀ c6 : Byte, (∃ c, quantizeColor c = c6) ↔ 0xC0 ≤ c6.toNat)

/-- The four levels of every channel, without rounding (R50). -/
def Obligations.QuantizeLevels : Prop :=
  ∀ (c : Color24) (v : Byte) (f : Field),
    (v, f) ∈ [(c.r, c6Red (quantizeColor c)), (c.g, c6Green (quantizeColor c)), (c.b, c6Blue (quantizeColor c))] →
    (v.toNat ≤ 0x3F → f = 0#2) ∧
    (0x40 ≤ v.toNat → v.toNat ≤ 0x7F → f = 1#2) ∧
    (0x80 ≤ v.toNat → v.toNat ≤ 0xBF → f = 2#2) ∧
    (0xC0 ≤ v.toNat → f = 3#2)

/-- Lane independence (R51): a field of the result depends on its own channel only, and the marker on none. -/
def Obligations.QuantizeLanes : Prop :=
  ∀ c d : Color24,
    (c.r = d.r → (quantizeColor c).extractLsb' 0 2 = (quantizeColor d).extractLsb' 0 2) ∧
    (c.g = d.g → (quantizeColor c).extractLsb' 2 2 = (quantizeColor d).extractLsb' 2 2) ∧
    (c.b = d.b → (quantizeColor c).extractLsb' 4 2 = (quantizeColor d).extractLsb' 4 2) ∧
    (quantizeColor c).extractLsb' 6 2 = (quantizeColor d).extractLsb' 6 2

/-- The OR of R49 is the sum `192 + 16·b2 + 4·g2 + r2`, taken without wrapping, and lies from 192 to 255
(R48, R52). -/
def Obligations.QuantizeSum : Prop :=
  ∀ c : Color24,
    (quantizeColor c).toNat = 192 + 16 * (c.b.toNat / 64) + 4 * (c.g.toNat / 64) + c.r.toNat / 64 ∧
    192 ≤ (quantizeColor c).toNat ∧ (quantizeColor c).toNat ≤ 255

/-- Exactly 2^18 of the 2^24 operands map to each of the 64 marked results, namely those whose channels fall in
the ranges the result's fields name (R53). -/
def Obligations.QuantizeFibres : Prop :=
  ∀ c6 : Byte, 0xC0 ≤ c6.toNat →
    (∀ c : Color24, quantizeColor c = c6 ↔
      c.r.toNat / 64 = c6.toNat % 4 ∧ c.g.toNat / 64 = c6.toNat / 4 % 4 ∧ c.b.toNat / 64 = c6.toNat / 16 % 4) ∧
    ((Finset.univ : Finset (Fin 256 × Fin 256 × Fin 256)).filter fun p =>
      quantizeColor { r := BitVec.ofFin p.1, g := BitVec.ofFin p.2.1, b := BitVec.ofFin p.2.2 } = c6).card
        = 2 ^ 18

/-- QUANTIZE is monotone in every lane (R54). -/
def Obligations.QuantizeMonotone : Prop :=
  ∀ c d : Color24,
    (c.r ≤ d.r → c6Red (quantizeColor c) ≤ c6Red (quantizeColor d)) ∧
    (c.g ≤ d.g → c6Green (quantizeColor c) ≤ c6Green (quantizeColor d)) ∧
    (c.b ≤ d.b → c6Blue (quantizeColor c) ≤ c6Blue (quantizeColor d))

/-- The palette sentinel 0xF3 is the result of exactly the colours with r and b in 0xC0–0xFF and g in
0x00–0x3F, among them (255, 0, 255) (R55). -/
def Obligations.QuantizeSentinel : Prop :=
  (∀ c : Color24, quantizeColor c = 0xF3#8 ↔ 0xC0 ≤ c.r.toNat ∧ c.g.toNat ≤ 0x3F ∧ 0xC0 ≤ c.b.toNat) ∧
  quantizeColor { r := 255#8, g := 0#8, b := 255#8 } = 0xF3#8

/-- Grey operands, from every state: the Color6 byte of the response is `0xC0 | 0x15·trunc2(v)`, one of four
(R56). -/
def Obligations.QuantizeGreys : Prop :=
  ∀ (v : Byte) (s : State), ∃ t, exec (.quantize v v v) s = .next t ∧
    t.resp.extractLsb' 0 8 = 0xC0#8 ||| 0x15#8 * (v >>> 6) ∧
    t.resp.extractLsb' 0 8 ∈ [0xC0#8, 0xD5#8, 0xEA#8, 0xFF#8]

/-- Marker handling, from every state: DATA depends on bits [5:0] of the operand alone, MARKER_OK is 1 exactly
when bits [7:6] are 0b11, and there is no error either way (R59). -/
def Obligations.ExpandMarker : Prop :=
  ∀ (c6 d6 : Byte) (s : State), c6.extractLsb' 0 6 = d6.extractLsb' 0 6 →
    ∃ t u, exec (.expand c6) s = .next t ∧ exec (.expand d6) s = .next u ∧
      respData t.resp = respData u.resp ∧
      (respMarkerOk t.resp = 1#1 ↔ c6.extractLsb' 6 2 = 0b11#2) ∧
      respErr t.resp = 0#1 ∧ respEcode t.resp = 0#3

/-- The range of EXPAND (R60): four levels in each channel, 64 distinct DATA results, the same DATA for the four
operands that differ in the marker, and MARKER_OK for exactly one of them. -/
def Obligations.ExpandRange : Prop :=
  (∀ c6 v : Byte, v ∈ [(expandColor c6).r, (expandColor c6).g, (expandColor c6).b] →
    v ∈ [0x00#8, 0x55#8, 0xAA#8, 0xFF#8]) ∧
  ((Finset.univ : Finset (Fin 256)).image fun n => rgb24 (expandColor (BitVec.ofFin n))).card = 64 ∧
  (∀ c6 d6 : Byte, d6 ∈ [c6, c6 ^^^ 0x40#8, c6 ^^^ 0x80#8, c6 ^^^ 0xC0#8] → expandColor d6 = expandColor c6) ∧
  (∀ c6 : Byte,
    ([c6, c6 ^^^ 0x40#8, c6 ^^^ 0x80#8, c6 ^^^ 0xC0#8].filter fun d6 => markerOk d6 = 1#1).length = 1)

/-- QUANTIZE inverts EXPAND up to the marker, and exactly on marked bytes, because truncation undoes replication
(R61); seen through the responses, the Color6 byte of the second transaction is the operand of the first. -/
def Obligations.QuantizeInvertsExpand : Prop :=
  (∀ v2 : Field, trunc2 (rep2 v2) = v2) ∧
  ∀ c6 : Byte,
    quantizeColor (expandColor c6) = c6 ||| 0xC0#8 ∧
    (0xC0 ≤ c6.toNat → quantizeColor (expandColor c6) = c6) ∧
    (∀ s t : State, exec (.expand c6) s = .next t →
      exec (.quantize (t.resp.extractLsb' 16 8) (t.resp.extractLsb' 8 8) (t.resp.extractLsb' 0 8)) t =
        .next { t with resp := 0x01000000#32 ||| (c6 ||| 0xC0#8).setWidth 32, respValid := true, pending := none })

/-- Re-quantization is idempotent, and the colour in between has one of four values per channel (R62). -/
def Obligations.RequantizeIdempotent : Prop :=
  ∀ c : Color24,
    quantizeColor (expandColor (quantizeColor c)) = quantizeColor c ∧
    ∀ v : Byte, v ∈ [(expandColor (quantizeColor c)).r, (expandColor (quantizeColor c)).g,
      (expandColor (quantizeColor c)).b] → v ∈ [0x00#8, 0x55#8, 0xAA#8, 0xFF#8]

/-- EXPAND after QUANTIZE returns the colour exactly when every channel is one of the four levels; per channel,
with `k` the 2-bit field, the error lies from `21·k − 63` to `21·k`, at most 63 in magnitude (R63). -/
def Obligations.ExpandQuantizeError : Prop :=
  ∀ c : Color24,
    (expandColor (quantizeColor c) = c ↔
      ∀ v ∈ [c.r, c.g, c.b], v ∈ [0x00#8, 0x55#8, 0xAA#8, 0xFF#8]) ∧
    ∀ v u : Byte, (v, u) ∈ [(c.r, (expandColor (quantizeColor c)).r), (c.g, (expandColor (quantizeColor c)).g),
        (c.b, (expandColor (quantizeColor c)).b)] →
      21 * ((v.toNat / 64 : Nat) : Int) - 63 ≤ (u.toNat : Int) - (v.toNat : Int) ∧
      (u.toNat : Int) - (v.toNat : Int) ≤ 21 * ((v.toNat / 64 : Nat) : Int) ∧
      ((u.toNat : Int) - (v.toNat : Int)).natAbs ≤ 63

/-- Lane independence of EXPAND: a channel reads its own field only, MARKER_OK only bits [7:6] (R64). -/
def Obligations.ExpandLanes : Prop :=
  ∀ c6 d6 : Byte,
    (c6.extractLsb' 0 2 = d6.extractLsb' 0 2 → (expandColor c6).r = (expandColor d6).r) ∧
    (c6.extractLsb' 2 2 = d6.extractLsb' 2 2 → (expandColor c6).g = (expandColor d6).g) ∧
    (c6.extractLsb' 4 2 = d6.extractLsb' 4 2 → (expandColor c6).b = (expandColor d6).b) ∧
    (c6.extractLsb' 6 2 = d6.extractLsb' 6 2 → markerOk c6 = markerOk d6)

/-! ## Errors and the response word -/

/-- ILLEGAL_OP: a reserved OP answers 0x90000000 whatever the other bits are, as any completed transaction does
and with nothing else changed (R67). -/
def Obligations.IllegalOpAnswer : Prop :=
  ∀ (s : State) (w : Word), s.blockMoves = true → s.pending = some w →
    (w.extractLsb' 24 8 = 0x00#8 ∨ 0x03 ≤ (w.extractLsb' 24 8).toNat) →
    decode w = .error .illegalOp ∧
    step s = .next { s.useBlockTurn with resp := 0x90000000#32, respValid := true, pending := none }

/-- RESERVED_NONZERO: an EXPAND word with a reserved bit set answers 0xA0000000 whatever C6 is, as any completed
transaction does and with nothing else changed (R68). -/
def Obligations.ReservedNonzeroAnswer : Prop :=
  ∀ (s : State) (w : Word), s.blockMoves = true → s.pending = some w →
    w.extractLsb' 24 8 = 0x02#8 → w.extractLsb' 8 16 ≠ 0#16 →
    decode w = .error .reservedNonzero ∧
    step s = .next { s.useBlockTurn with resp := 0xA0000000#32, respValid := true, pending := none }

/-- Every response word keeps the layout (R40, R43, R66): bits [27:25] are 0; without an error ECODE is 0; with one
ECODE is 1 or 2 and MARKER_OK and DATA are 0. -/
def Obligations.ResponseLayout : Prop :=
  ∀ w : Word,
    (response w).extractLsb' 25 3 = 0#3 ∧
    ((response w).extractLsb' 31 1 = 0#1 → (response w).extractLsb' 28 3 = 0#3) ∧
    ((response w).extractLsb' 31 1 = 1#1 →
      ((response w).extractLsb' 28 3 = 1#3 ∨ (response w).extractLsb' 28 3 = 2#3) ∧
      (response w).extractLsb' 0 25 = 0#25)

/-- The fault of a transaction is read from its response: none for an operation, the raised error for a word
that raises one (R66, R72). -/
def Obligations.TransactionFaultReported : Prop :=
  ∀ w : Word,
    (∀ i, decode w = .ok i → transactionFault (response w) = none) ∧
    (∀ e, decode w = .error e → transactionFault (response w) = some e)

/-! ## The transaction steps -/

/-- When a request in progress decodes to an operation and the block has the turn, the step is the execution of
that operation, with the block's turn used up. -/
def Obligations.StepRunsDecoded : Prop :=
  ∀ (s : State) (w : Word) (i : Instr), s.blockMoves = true → s.pending = some w → decode w = .ok i →
    step s = exec i s.useBlockTurn

/-- ACCEPT: with `PENDING` empty the presented word is accepted; with a request in progress it waits, unaccepted,
until the block has completed that request (R77). That the step which finds it waiting is that COMPLETE is the
model's choice (log entry 2). The value `RESP` is left with is not stated: it is undefined. -/
def Obligations.AcceptStep : Prop :=
  ∀ (s : State) (w : Word) (rest : List Turn), s.turns = .present w :: rest →
    (s.pending = none → ∃ v d, step s = .next { s with
      turns := rest, pending := some w, respValid := false, resp := v, draws := d }) ∧
    (∀ q, s.pending = some q → step s = .next { s with
      resp := response q, respValid := true, pending := none })

/-- COMPLETE: one indivisible update sets `RESP` to the response of the request, sets `RESP_VALID` and empties
`PENDING` (R78). -/
def Obligations.CompleteStep : Prop :=
  ∀ (s : State) (w : Word), s.blockMoves = true → s.pending = some w →
    step s = .next { s.useBlockTurn with resp := response w, respValid := true, pending := none }

/-- RESET at any time: `RESP_VALID` and `PENDING` are cleared and nothing else of the block is touched (R79). The
value `RESP` is left with is not stated: it is undefined. -/
def Obligations.ResetStep : Prop :=
  ∀ (s : State) (rest : List Turn), s.turns = .reset :: rest →
    ∃ v d, step s = .next { s with
      turns := rest, respValid := false, pending := none, resp := v, draws := d }

/-- A request in progress at reset is abandoned (R80): the reset leads to the same state whatever was in progress,
and as long as no request is presented again, no response is ever produced and `RESP_VALID` stays 0. -/
def Obligations.ResetAbandons : Prop :=
  ∀ (s : State) (rest : List Turn) (n : Nat), s.turns = .reset :: rest →
    (∀ p, step { s with pending := p } = step s) ∧
    (rest.any Turn.isPresent = false →
      observation n s = [] ∧
      ∀ t, core.run (n + 1) s = .next t → t.respValid = false ∧ t.pending = none)

/-- With no request in progress the block's turn changes nothing (the model's choice, log entry 3; R78 enables
COMPLETE only when `PENDING` holds a word). -/
def Obligations.IdleStep : Prop :=
  ∀ s : State, s.blockMoves = true → s.pending = none → step s = .next s.useBlockTurn

/-- A read of `RESP` while `RESP_VALID` = 0 is a fault, never a value (R20, R84). That the fault ends the model's
run is log entry 7. -/
def Obligations.EarlyReadFaults : Prop :=
  ∀ (s : State) (rest : List Turn), s.turns = .readResp :: rest → s.respValid = false →
    step s = .fault .earlyRead

/-- Reading has no side effect in the block and may be repeated with the same result (R27). One read of `RESP` while
it is valid, or of `RESP_VALID` at any time, hands over the value, whatever turn follows, and changes only `turns`
and `reads`, the model's own fields (log entries 1 and 9); so two reads in a row give the same value twice. -/
def Obligations.ReadsRepeat : Prop :=
  ∀ (s : State) (rest : List Turn), s.Inv →
    (s.turns = .readResp :: rest → s.respValid = true →
      step s = .next { s with turns := rest, reads := s.reads ++ [.resp s.resp] }) ∧
    (s.turns = .readValid :: rest →
      step s = .next { s with turns := rest, reads := s.reads ++ [.valid s.respValid] }) ∧
    (s.turns = .readResp :: .readResp :: rest → s.respValid = true →
      core.run 2 s = .next { s with turns := rest, reads := s.reads ++ [.resp s.resp, .resp s.resp] }) ∧
    (s.turns = .readValid :: .readValid :: rest →
      core.run 2 s = .next { s with turns := rest, reads := s.reads ++ [.valid s.respValid, .valid s.respValid] })

/-! ## The whole machine -/

/-- `RESP_VALID` = 0 and `PENDING` empty after reset (R10, R20). -/
def Obligations.ResetValues : Prop :=
  State.reset.respValid = false ∧ State.reset.pending = none

/-- The latch invariant holds after reset. -/
def Obligations.InvariantAtReset : Prop := State.reset.Inv

/-- Every step keeps the latch invariant: a request in progress excludes a valid response (R10, R20), and a valid
response is the response of some request (R19, R78). -/
def Obligations.InvariantKept : Prop :=
  ∀ s t : State, s.Inv → step s = .next t → t.Inv

/-- The only stop there is: the machine refuses nothing, and it faults exactly on a read of `RESP` while
`RESP_VALID` = 0 (R74, R84). No request word stops it: that an erring transaction is no fault of the machine but a
next state, its fault read from the response, is the model's choice (log entry 6; R72 and 93_implementation_defined
give it the treatment `fault`). -/
def Obligations.StopsOnlyOnEarlyRead : Prop :=
  ∀ s : State, s.Inv →
    (∀ r, step s ≠ .refused r) ∧
    (∀ r, step s = .fault r ↔ r = .earlyRead ∧ s.respValid = false ∧ ∃ rest, s.turns = .readResp :: rest)

/-- After a step `RESP_VALID` is 1 exactly when the step was a COMPLETE, or it was 1 before and the step was
neither an ACCEPT nor a RESET (R20). -/
def Obligations.RespValidRule : Prop :=
  ∀ s t : State, step s = .next t →
    (t.respValid = true ↔
      s.completes = true ∨ (s.respValid = true ∧ s.accepts = false ∧ s.resets = false))

/-- `RESP` holds its value while `RESP_VALID` = 1, until the next request is accepted or a reset occurs (R19). -/
def Obligations.RespHeld : Prop :=
  ∀ s t : State, s.Inv → step s = .next t → s.respValid = true → s.accepts = false → s.resets = false →
    t.respValid = true ∧ t.resp = s.resp

/-- An accepted request stays in progress until it is completed, with its own response, or a reset abandons it:
the caller can neither change nor withdraw it (R86). -/
def Obligations.PendingHeld : Prop :=
  ∀ (s t : State) (w : Word), step s = .next t → s.pending = some w →
    t.pending = some w ∨
    (s.completes = true ∧ t.pending = none ∧ t.respValid = true ∧ t.resp = response w) ∨
    (s.resets = true ∧ t.pending = none ∧ t.respValid = false)

/-- The response of a transaction depends on its request word alone: two blocks in any two states give the same
response to the same request (R22). -/
def Obligations.ResponseByRequestAlone : Prop :=
  ∀ (s u : State) (w : Word), s.blockMoves = true → u.blockMoves = true →
    s.pending = some w → u.pending = some w →
    ∃ s' u', step s = .next s' ∧ step u = .next u' ∧ s'.resp = u'.resp ∧
      s'.respValid = true ∧ u'.respValid = true

/-- Acceptance forgets the last response: what the latch held, a result or an error, influences nothing from the
next accepted request on (R22, R71, R83). -/
def Obligations.ErrorsDoNotStick : Prop :=
  ∀ (s : State) (e : DecodeError) (q : Word) (rest : List Turn), s.turns = .present q :: .block :: rest →
    s.pending = none →
    core.run 2 (s.raiseError e) = core.run 2 s ∧
    ∃ t, core.run 2 (s.raiseError e) = .next t ∧ t.resp = response q ∧ t.respValid = true ∧ t.pending = none

/-- Requests presented one after another are answered in order, each with its own response, and then the run is
over (R29, R87). That 2n steps suffice, since the block completes a request while the next presentation waits and
when no turns are left, is the model's choice (log entry 2). -/
def Obligations.AnsweredInOrder : Prop :=
  ∀ (qs : List Word) (s : State), s.pending = none → s.turns = qs.map Turn.present →
    observation (2 * qs.length) s = qs.map response ∧
    runOver (2 * qs.length) s = true ∧
    ∃ t, core.run (2 * qs.length) s = .next t ∧ t.turns = []

/-- A caller that presents requests and reads `RESP` after each gets back the responses in that order, whatever
follows (R29, R84, R86). That 3n steps do it, one for each turn, and that the reads are kept in `reads`, is the
model's form of the interface (log entries 1 and 9). -/
def Obligations.CallerReadsInOrder : Prop :=
  ∀ (qs : List Word) (rest : List Turn) (s : State), s.pending = none → s.turns = callerTurns qs ++ rest →
    ∃ t, core.run (3 * qs.length) s = .next t ∧
      t.reads = s.reads ++ qs.map (fun q => CallerRead.resp (response q)) ∧
      t.turns = rest ∧ t.pending = none

/-- Bounded liveness (R85): a request in progress, with no reset before the block's turn, is completed after any
number `k` of polls of `RESP_VALID`, and every poll before that reads 0. That a block's turn follows is the
model's form of weak fairness (log entry 2). -/
def Obligations.PendingCompletes : Prop :=
  ∀ (s : State) (w : Word) (k : Nat) (rest : List Turn), s.Inv → s.pending = some w →
    s.turns = List.replicate k .readValid ++ rest → State.blockMoves { s with turns := rest } = true →
    ∃ t, core.run (k + 1) s = .next t ∧ t.resp = response w ∧ t.respValid = true ∧ t.pending = none ∧
      t.reads = s.reads ++ List.replicate k (.valid false)

/-- Instances share no state (R75). When the step of instance `j` answers, the system's step puts that answer in its
place and leaves every other instance as it was, whatever that one is about to do; and when the steps of two
instances answer, they may be taken in either order. That a system moves one instance at a time is the model's choice
(log entry 14). -/
def Obligations.InstancesIndependent : Prop :=
  (∀ (j : Nat) (system : List State) (s t : State), system[j]? = some s → step s = .next t →
    ∃ left, stepInstance j system = .next left ∧ left.length = system.length ∧ left[j]? = some t ∧
      ∀ k, k ≠ j → left[k]? = system[k]?) ∧
  (∀ (j k : Nat) (system left right : List State), j ≠ k →
    stepInstance j system = .next left → stepInstance k system = .next right →
    ∃ both, stepInstance k left = .next both ∧ stepInstance j right = .next both)

/-- Over every interleaving of turns in which no request is abandoned, the responses observed are those of the
requests in progress at the start or accepted since, one for each and in order, save the one still in progress at
the end; when the run is over there is none left (R29, R87). -/
def Obligations.ObservationOfRun : Prop :=
  ∀ (n : Nat) (s t : State), core.run n s = .next t → abandoned n s = [] →
    observation n s ++ t.pending.toList.map response = (s.pending.toList ++ accepted n s).map response ∧
    (runOver n s = true → observation n s = (s.pending.toList ++ accepted n s).map response)

/-- A run in which a reset overtakes an accepted request is not over, then or at any later step, even when the caller
presents the request again (R80, R87). -/
def Obligations.AbandonedRunNotOver : Prop :=
  ∀ (m n : Nat) (s t : State), core.run m s = .next t → t.resets = true → t.pending.isSome = true → m < n →
    runOver n s = false

/-! ## The assembler -/

/-- The three written forms give the words of R44 when every operand is in its range, and are refused, never
truncated, when one is not. -/
def Obligations.AssemblerForms : Prop :=
  (∀ r g b : Nat, assemble (.quantize r g b) =
    if r ≤ 255 ∧ g ≤ 255 ∧ b ≤ 255 then
      .ok (0x01000000#32 ||| BitVec.ofNat 32 r <<< 16 ||| BitVec.ofNat 32 g <<< 8 ||| BitVec.ofNat 32 b)
    else .error .outOfRange) ∧
  (∀ c6 : Nat, assemble (.expand c6) =
    if c6 ≤ 255 then .ok (0x02000000#32 ||| BitVec.ofNat 32 c6) else .error .outOfRange) ∧
  (∀ w : Nat, assemble (.word w) = if w ≤ 0xFFFFFFFF then .ok (BitVec.ofNat 32 w) else .error .outOfRange)

/-- Text after `;` is a comment (R44): it changes nothing of what a line assembles to. -/
def Obligations.CommentIgnored : Prop :=
  ∀ line comment : List Char, assembleText (line ++ ';' :: comment) = assembleText line
end

