-- ==== Sys2Proof/Laws/State.lean ====
section
/-! SUPPORT. What each update of the state does to each of its fields, so that no later proof unfolds a record
update. -/

namespace Sys2Proof.Machine

variable (s : State)

@[simp] theorem State.respond_resp (w : Word) : (s.respond w).resp = w := rfl
@[simp] theorem State.respond_respValid (w : Word) : (s.respond w).respValid = true := rfl
@[simp] theorem State.respond_pending (w : Word) : (s.respond w).pending = none := rfl
@[simp] theorem State.respond_turns (w : Word) : (s.respond w).turns = s.turns := rfl
@[simp] theorem State.respond_reads (w : Word) : (s.respond w).reads = s.reads := rfl
@[simp] theorem State.respond_draws (w : Word) : (s.respond w).draws = s.draws := rfl

@[simp] theorem State.raiseError_resp (e : DecodeError) : (s.raiseError e).resp = errorResponse e := rfl
@[simp] theorem State.raiseError_respValid (e : DecodeError) : (s.raiseError e).respValid = true := rfl
@[simp] theorem State.raiseError_pending (e : DecodeError) : (s.raiseError e).pending = none := rfl
@[simp] theorem State.raiseError_turns (e : DecodeError) : (s.raiseError e).turns = s.turns := rfl
@[simp] theorem State.raiseError_reads (e : DecodeError) : (s.raiseError e).reads = s.reads := rfl
@[simp] theorem State.raiseError_draws (e : DecodeError) : (s.raiseError e).draws = s.draws := rfl

@[simp] theorem State.forgetResp_resp : (s.forgetResp).resp = Config.undefinedResp s.draws := rfl
@[simp] theorem State.forgetResp_respValid : (s.forgetResp).respValid = s.respValid := rfl
@[simp] theorem State.forgetResp_pending : (s.forgetResp).pending = s.pending := rfl
@[simp] theorem State.forgetResp_turns : (s.forgetResp).turns = s.turns := rfl
@[simp] theorem State.forgetResp_reads : (s.forgetResp).reads = s.reads := rfl
@[simp] theorem State.forgetResp_draws : (s.forgetResp).draws = s.draws + 1 := rfl

@[simp] theorem State.accept_resp (w : Word) : (s.accept w).resp = Config.undefinedResp s.draws := rfl
@[simp] theorem State.accept_respValid (w : Word) : (s.accept w).respValid = false := rfl
@[simp] theorem State.accept_pending (w : Word) : (s.accept w).pending = some w := rfl
@[simp] theorem State.accept_turns (w : Word) : (s.accept w).turns = s.turns := rfl
@[simp] theorem State.accept_reads (w : Word) : (s.accept w).reads = s.reads := rfl
@[simp] theorem State.accept_draws (w : Word) : (s.accept w).draws = s.draws + 1 := rfl

@[simp] theorem State.resetBlock_resp : (s.resetBlock).resp = Config.undefinedResp s.draws := rfl
@[simp] theorem State.resetBlock_respValid : (s.resetBlock).respValid = false := rfl
@[simp] theorem State.resetBlock_pending : (s.resetBlock).pending = none := rfl
@[simp] theorem State.resetBlock_turns : (s.resetBlock).turns = s.turns := rfl
@[simp] theorem State.resetBlock_reads : (s.resetBlock).reads = s.reads := rfl
@[simp] theorem State.resetBlock_draws : (s.resetBlock).draws = s.draws + 1 := rfl

@[simp] theorem State.record_resp (r : CallerRead) : (s.record r).resp = s.resp := rfl
@[simp] theorem State.record_respValid (r : CallerRead) : (s.record r).respValid = s.respValid := rfl
@[simp] theorem State.record_pending (r : CallerRead) : (s.record r).pending = s.pending := rfl
@[simp] theorem State.record_turns (r : CallerRead) : (s.record r).turns = s.turns := rfl
@[simp] theorem State.record_reads (r : CallerRead) : (s.record r).reads = s.reads ++ [r] := rfl
@[simp] theorem State.record_draws (r : CallerRead) : (s.record r).draws = s.draws := rfl

@[simp] theorem State.readValid_resp : (s.readValid).resp = s.resp := rfl
@[simp] theorem State.readValid_respValid : (s.readValid).respValid = s.respValid := rfl
@[simp] theorem State.readValid_pending : (s.readValid).pending = s.pending := rfl
@[simp] theorem State.readValid_turns : (s.readValid).turns = s.turns := rfl
@[simp] theorem State.readValid_reads : (s.readValid).reads = s.reads ++ [.valid s.respValid] := rfl
@[simp] theorem State.readValid_draws : (s.readValid).draws = s.draws := rfl

@[simp] theorem State.useBlockTurn_resp : s.useBlockTurn.resp = s.resp := by
  unfold State.useBlockTurn; split <;> rfl
@[simp] theorem State.useBlockTurn_respValid : s.useBlockTurn.respValid = s.respValid := by
  unfold State.useBlockTurn; split <;> rfl
@[simp] theorem State.useBlockTurn_pending : s.useBlockTurn.pending = s.pending := by
  unfold State.useBlockTurn; split <;> rfl
@[simp] theorem State.useBlockTurn_reads : s.useBlockTurn.reads = s.reads := by
  unfold State.useBlockTurn; split <;> rfl
@[simp] theorem State.useBlockTurn_draws : s.useBlockTurn.draws = s.draws := by
  unfold State.useBlockTurn; split <;> rfl

@[simp] theorem placeRequest_resp (w : Word) : (placeRequest s w).resp = s.resp := rfl
@[simp] theorem placeRequest_respValid (w : Word) : (placeRequest s w).respValid = false := rfl
@[simp] theorem placeRequest_pending (w : Word) : (placeRequest s w).pending = some w := rfl
@[simp] theorem placeRequest_turns (w : Word) : (placeRequest s w).turns = .block :: s.turns := rfl
@[simp] theorem placeRequest_reads (w : Word) : (placeRequest s w).reads = s.reads := rfl
@[simp] theorem placeRequest_draws (w : Word) : (placeRequest s w).draws = s.draws := rfl

/-- The turns left when the block moves: its own turn goes, every other stays. -/
theorem State.useBlockTurn_turns : s.useBlockTurn.turns =
    match s.turns with
    | .block :: rest => rest
    | turns => turns := by
  unfold State.useBlockTurn
  split <;> simp_all

end Sys2Proof.Machine
end

