-- ==== Sys2Proof/Laws/Ops.lean ====
section
/-! SUPPORT. What each shared operation can do, said once. -/

namespace Sys2Proof.Machine

/-- COMPLETE always answers, with the response of the request word, and changes only the latch and
`PENDING`. -/
theorem complete_eq_respond (w : Word) (s : State) : complete w s = .next (s.respond (response w)) := by
  unfold complete response
  cases decode w with
  | error e => rfl
  | ok i => cases i <;> rfl

/-- The block's move, with a request in progress. -/
theorem moveBlock_some {s : State} {w : Word} (h : s.pending = some w) :
    moveBlock s = .next (s.respond (response w)) := by
  simp only [moveBlock, h, complete_eq_respond]

/-- The block's move, with none. -/
theorem moveBlock_none {s : State} (h : s.pending = none) : moveBlock s = .next s := by
  simp only [moveBlock, h]

/-- What a read of `RESP` that answers has done. -/
theorem State.readResp_next {s t : State} (h : s.readResp = .next t) :
    s.respValid = true ∧ t = s.record (.resp s.resp) := by
  unfold State.readResp at h
  split at h
  · cases h
  · split at h
    · cases h
    · split at h
      · cases h
      · cases h
        exact ⟨by simp_all, rfl⟩

/-- When a read of `RESP` faults, and with which fault. -/
theorem State.readResp_fault {s : State} {r : Fault} (h : s.readResp = .fault r) :
    r = .earlyRead ∧ s.respValid = false := by
  unfold State.readResp at h
  split at h
  next hv => cases h; exact ⟨rfl, hv⟩
  next =>
    split at h
    · cases h
    · split at h <;> cases h

/-- A read of `RESP` that is refused has met a word the spec says is never produced. -/
theorem State.readResp_refused {s : State} {r : Refusal} (h : s.readResp = .refused r) :
    respReserved s.resp ≠ 0#3 ∨ 3#3 ≤ respEcode s.resp := by
  unfold State.readResp at h
  split at h
  · cases h
  · split at h
    next hr => exact .inl hr
    next =>
      split at h
      next he => exact .inr he
      next => cases h

end Sys2Proof.Machine
end

