-- ==== Sys2Proof/Laws/PerInstr.lean ====
section
/-! SUPPORT. One lemma for each operation about its encoding pattern: the match and mask of R34 and R35. -/

namespace Sys2Proof.Laws

/-- A mask whose low byte is 0 clears the low byte and masks the rest. -/
theorem and_mask_append {n : Nat} (x m : BitVec n) (y : Byte) : (x ++ y) &&& (m ++ 0#8) = (x &&& m) ++ 0#8 := by
  rw [BitVec.and_append, BitVec.and_zero]

namespace EncodingPattern

/-- The fixed bits of an operation's request word are those of its row in the opcode table: QUANTIZE has match
0x01000000 and mask 0xFF000000 (R34), EXPAND match 0x02000000 and mask 0xFFFFFF00 (R35). -/
def Statement : Instr → Prop
  | .quantize r g b => encode (.quantize r g b) &&& 0xFF000000#32 = 0x01000000#32
  | .expand c6 => encode (.expand c6) &&& 0xFFFFFF00#32 = 0x02000000#32

theorem quantize (r g b : Byte) : Statement (.quantize r g b) := by
  show ((opQuantize ++ r ++ g) ++ b : BitVec (24 + 8)) &&& (0xFF0000#24 ++ 0#8) = 0x010000#24 ++ 0#8
  have red : ((opQuantize ++ r : BitVec 16) &&& (0xFF#8 ++ 0#8 : BitVec 16)) = 0x01#8 ++ 0#8 :=
    and_mask_append opQuantize 0xFF#8 r
  have green : ((opQuantize ++ r ++ g : BitVec 24) &&& (0xFF00#16 ++ 0#8 : BitVec 24)) =
      (0x01#8 ++ 0#8 : BitVec 16) ++ 0#8 :=
    (and_mask_append (opQuantize ++ r) 0xFF00#16 g).trans (congrArg (· ++ 0#8) red)
  exact (and_mask_append (opQuantize ++ r ++ g) 0xFF0000#24 b).trans (congrArg (· ++ 0#8) green)

theorem expand (c6 : Byte) : Statement (.expand c6) :=
  and_mask_append (opExpand ++ 0#16) 0xFFFFFF#24 c6

end EncodingPattern

end Sys2Proof.Laws
end

