-- ==== Sys2Proof/Laws/Step.lean ====
section
/-! SUPPORT. What a step can do, said once, and the step equation of each kind of turn. -/

namespace Sys2Proof.Machine

variable {s : State}

/-- When the block is to move, a step is its move. -/
theorem step_of_blockMoves (h : s.blockMoves = true) : step s = moveBlock s.useBlockTurn := by
  unfold State.blockMoves at h
  unfold step takeTurn State.useBlockTurn
  split at h <;> simp_all
  split <;> simp_all

theorem step_present_none {w : Word} {rest : List Turn} (ht : s.turns = .present w :: rest)
    (hp : s.pending = none) : step s = .next (State.accept { s with turns := rest } w) := by
  simp only [step, takeTurn, ht, hp]

theorem step_readValid {rest : List Turn} (ht : s.turns = .readValid :: rest) :
    step s = .next (State.readValid { s with turns := rest }) := by
  simp only [step, takeTurn, ht]

theorem step_readResp {rest : List Turn} (ht : s.turns = .readResp :: rest) :
    step s = State.readResp { s with turns := rest } := by
  simp only [step, takeTurn, ht]

theorem step_reset {rest : List Turn} (ht : s.turns = .reset :: rest) :
    step s = .next (State.resetBlock { s with turns := rest }) := by
  simp only [step, takeTurn, ht]

/-- Whose turn it is: the block's, or one of the caller's four actions. -/
theorem turn_cases (s : State) :
    s.blockMoves = true ∨
    (∃ w rest, s.turns = .present w :: rest ∧ s.pending = none) ∨
    (∃ rest, s.turns = .readValid :: rest) ∨
    (∃ rest, s.turns = .readResp :: rest) ∨
    (∃ rest, s.turns = .reset :: rest) := by
  unfold State.blockMoves
  cases s.turns with
  | nil => exact .inl rfl
  | cons turn rest =>
    cases turn with
    | block => exact .inl rfl
    | present w =>
      cases hp : s.pending with
      | none => exact .inr (.inl ⟨w, rest, rfl, rfl⟩)
      | some q => exact .inl rfl
    | readValid => exact .inr (.inr (.inl ⟨rest, rfl⟩))
    | readResp => exact .inr (.inr (.inr (.inl ⟨rest, rfl⟩)))
    | reset => exact .inr (.inr (.inr (.inr ⟨rest, rfl⟩)))

/-- Everything a step that answers can have done: wait, COMPLETE, ACCEPT, a read, or RESET. -/
theorem step_cases {t : State} (h : step s = .next t) :
    (s.blockMoves = true ∧ s.pending = none ∧ t = s.useBlockTurn) ∨
    (∃ w, s.blockMoves = true ∧ s.pending = some w ∧ t = s.useBlockTurn.respond (response w)) ∨
    (∃ w rest, s.turns = .present w :: rest ∧ s.pending = none ∧
      t = State.accept { s with turns := rest } w) ∨
    (∃ rest, s.turns = .readValid :: rest ∧ t = State.readValid { s with turns := rest }) ∨
    (∃ rest, s.turns = .readResp :: rest ∧ s.respValid = true ∧
      t = State.record { s with turns := rest } (.resp s.resp)) ∨
    (∃ rest, s.turns = .reset :: rest ∧ t = State.resetBlock { s with turns := rest }) := by
  rcases turn_cases s with hb | ⟨w, rest, ht, hp⟩ | ⟨rest, ht⟩ | ⟨rest, ht⟩ | ⟨rest, ht⟩
  · rw [step_of_blockMoves hb] at h
    cases hp : s.pending with
    | none =>
      rw [moveBlock_none (by simpa using hp)] at h
      cases h
      exact .inl ⟨hb, rfl, rfl⟩
    | some w =>
      rw [moveBlock_some (w := w) (by simpa using hp)] at h
      cases h
      exact .inr (.inl ⟨w, hb, rfl, rfl⟩)
  · rw [step_present_none ht hp] at h
    cases h
    exact .inr (.inr (.inl ⟨w, rest, ht, hp, rfl⟩))
  · rw [step_readValid ht] at h
    cases h
    exact .inr (.inr (.inr (.inl ⟨rest, ht, rfl⟩)))
  · rw [step_readResp ht] at h
    obtain ⟨hv, rfl⟩ := State.readResp_next h
    exact .inr (.inr (.inr (.inr (.inl ⟨rest, ht, hv, rfl⟩))))
  · rw [step_reset ht] at h
    cases h
    exact .inr (.inr (.inr (.inr (.inr ⟨rest, ht, rfl⟩))))

/-- The machine's step, as the host's interface names it. -/
@[simp] theorem core_step (s : State) : Host.Core.step core s = step s := rfl

/-- A run that begins with a step that answers goes on from where it led. -/
theorem run_of_next {n : Nat} {t : State} (h : step s = .next t) : core.run (n + 1) s = core.run n t := by
  simp only [Host.Core.run, core_step, h]

/-- What is collected from a run that begins with a step that answers. -/
theorem collect_of_next {pick : State → State → List Word} {n : Nat} {t : State} (h : step s = .next t) :
    collect pick (n + 1) s = pick s t ++ collect pick n t := by
  simp only [collect, h]

/-- An observation that begins with a COMPLETE starts with the response it wrote. -/
theorem observation_of_completes {n : Nat} {t : State} (h : step s = .next t) (hc : s.completes = true) :
    observation (n + 1) s = t.resp :: observation n t := by
  simp [observation, collect_of_next h, hc]

/-- An observation that begins with any other step is what follows it. -/
theorem observation_of_not_completes {n : Nat} {t : State} (h : step s = .next t) (hc : s.completes = false) :
    observation (n + 1) s = observation n t := by
  simp [observation, collect_of_next h, hc]

/-- A first step that accepts a request puts it first among the accepted. -/
theorem accepted_of_accepts {n : Nat} {t : State} (h : step s = .next t) (ha : s.accepts = true) :
    accepted (n + 1) s = t.pending.toList ++ accepted n t := by
  simp [accepted, collect_of_next h, ha]

/-- A first step of any other kind adds no accepted request. -/
theorem accepted_of_not_accepts {n : Nat} {t : State} (h : step s = .next t) (ha : s.accepts = false) :
    accepted (n + 1) s = accepted n t := by
  simp [accepted, collect_of_next h, ha]

/-- A first step that resets the block abandons the request in progress, if there is one. -/
theorem abandoned_of_resets {n : Nat} {t : State} (h : step s = .next t) (hr : s.resets = true) :
    abandoned (n + 1) s = s.pending.toList ++ abandoned n t := by
  simp [abandoned, collect_of_next h, hr]

/-- A first step of any other kind abandons no request. -/
theorem abandoned_of_not_resets {n : Nat} {t : State} (h : step s = .next t) (hr : s.resets = false) :
    abandoned (n + 1) s = abandoned n t := by
  simp [abandoned, collect_of_next h, hr]

end Sys2Proof.Machine
end

