-- ==== Sys2Proof/Tests/Slice0.lean ====
section
/-! SUPPORT. Tests on small states, with expected values from the spec's own vectors (95_test_vectors.md), and for
every obligation that has hypotheses a witness that they can be met. -/

namespace Sys2Proof.Tests

open Sys2Proof.Machine

/-- The state a step leads to, if it answers. -/
def nextOf (r : Result) : Option State :=
  match r with
  | .next s => some s
  | .fault _ => none
  | .refused _ => none

/-- Whether an outcome is this fault. -/
def faultsWith (f : Fault) (r : Result) : Bool :=
  match r with
  | .next _ => false
  | .fault g => decide (g = f)
  | .refused _ => false

/-- Whether an outcome is this refusal. -/
def refusesWith (f : Refusal) (r : Result) : Bool :=
  match r with
  | .next _ => false
  | .fault _ => false
  | .refused g => decide (g = f)

/-- After reset, with these turns to come. -/
def withTurns (ts : List Turn) : State := { State.reset with turns := ts }

/-- A request in progress, with these turns to come. -/
def inProgress (w : Word) (ts : List Turn) : State := { State.reset with pending := some w, turns := ts }

/-- A valid response in the latch, with these turns to come. -/
def answered (w : Word) (ts : List Turn) : State := { State.reset with resp := w, respValid := true, turns := ts }

/-! ### Well-formedness: an ill-formed term for each check, which it refuses (R44) -/

theorem test_wf_refuses_red : (SourceLine.quantize 256 0 0).wellFormed = false := by decide
theorem test_wf_refuses_green : (SourceLine.quantize 0 256 0).wellFormed = false := by decide
theorem test_wf_refuses_blue : (SourceLine.quantize 0 0 256).wellFormed = false := by decide
theorem test_wf_refuses_c6 : (SourceLine.expand 256).wellFormed = false := by decide
theorem test_wf_refuses_word : (SourceLine.word 0x100000000).wellFormed = false := by decide
theorem test_wf_takes_limits : (SourceLine.quantize 255 255 255).wellFormed = true ∧
    (SourceLine.word 0xFFFFFFFF).wellFormed = true := by decide

/-! ### Decoding words written out from the encodings of R34 and R35 -/

/-- `00000001 rrrrrrrr gggggggg bbbbbbbb` with r = 0xAB, g = 0xCD, b = 0xEF (95: Q14). -/
theorem test_decode_quantize :
    decode 0b00000001_10101011_11001101_11101111#32 = .ok (.quantize 0xAB#8 0xCD#8 0xEF#8) := by decide

/-- `00000010 00000000 00000000 cccccccc` with c = 0x7F, an unmarked byte (95: E6). -/
theorem test_decode_expand : decode 0b00000010_00000000_00000000_01111111#32 = .ok (.expand 0x7F#8) := by decide

/-- 95: X2, X4, X6. -/
theorem test_decode_illegal : decode 0x00FF0000#32 = .error .illegalOp ∧
    decode 0x7F123456#32 = .error .illegalOp ∧ decode 0xFFFFFFFF#32 = .error .illegalOp := by decide

/-- 95: X7, X9, X10. -/
theorem test_decode_reserved : decode 0x02000100#32 = .error .reservedNonzero ∧
    decode 0x02FFFFFF#32 = .error .reservedNonzero ∧ decode 0x02FF0000#32 = .error .reservedNonzero := by decide

/-- 95: Q13 and E12, as request words. -/
theorem test_encode : encode (.quantize 0x12#8 0x34#8 0x56#8) = 0x01123456#32 ∧
    encode (.expand 0xF3#8) = 0x020000F3#32 := by decide

/-- The opcode table's numbering: bit 0 is the least significant bit of the request word. -/
theorem test_table_word : decodeTableWord 32 0x014080C0 = some (.quantize 0x40#8 0x80#8 0xC0#8) ∧
    decodeTableWord 32 0x02000100 = none ∧ decodeTableWord 40 0x020000C0 = none := by decide

/-! ### The operations and the errors -/

/-- 95: Q11, three different levels, RESP 0x010000F9. -/
theorem test_quantize_lanes :
    (nextOf (exec (.quantize 0x40#8 0x80#8 0xC0#8) State.reset)).map (·.resp) = some 0x010000F9#32 := by decide

/-- 95: S1, pure red: 0xC3, not the source's 0xC1 (90_conflicts C1). -/
theorem test_quantize_red : (nextOf (step (State.reset.withFetchWord 32 0x01FF0000))).map
    (fun t => (t.resp, t.respValid, t.pending)) = some (0x010000C3#32, true, none) := by decide

/-- 95: 2.3, c6 = 0xD2 gives AA0055 with MARKER_OK. -/
theorem test_expand_marked :
    (nextOf (exec (.expand 0xD2#8) State.reset)).map (·.resp) = some 0x01AA0055#32 := by decide

/-- 95: E8, marker 10: the colour of 0xFF with MARKER_OK = 0. -/
theorem test_expand_unmarked : (nextOf (step (State.reset.withFetchWord 32 0x020000BF))).map
    (fun t => (t.resp, t.respValid, t.pending)) = some (0x00FFFFFF#32, true, none) := by decide

/-- 95: X11, ILLEGAL_OP has priority. -/
theorem test_illegal_op : (nextOf (step (State.reset.withFetchWord 32 0x0300FF00))).map
    (fun t => (t.resp, t.respValid, t.pending)) = some (0x90000000#32, true, none) := by decide

/-- 95: X8, the highest reserved bit. -/
theorem test_reserved_nonzero : (nextOf (step (State.reset.withFetchWord 32 0x02800000))).map
    (fun t => (t.resp, t.respValid, t.pending)) = some (0xA0000000#32, true, none) := by decide

/-- The fault of the transaction: ECODE names it (R66, R72). -/
theorem test_transaction_fault : transactionFault 0x90000000#32 = some .illegalOp ∧
    transactionFault 0xA0000000#32 = some .reservedNonzero ∧ transactionFault 0x010000C3#32 = none := by decide

/-! ### The transaction steps -/

/-- 95: P1, step 1, taken with a valid response in the latch: acceptance clears RESP_VALID (90_conflicts C6). -/
theorem test_accept : (nextOf (step (answered 0x010000C3#32 [.present 0x010000FF#32]))).map
    (fun t => (t.pending, t.respValid, t.turns)) = some (some 0x010000FF#32, false, []) := by decide

/-- R77: a request presented while another is in progress waits, and the block completes that one. -/
theorem test_present_waits : (nextOf (step (inProgress 0x010000FF#32 [.present 0x020000C3#32]))).map
    (fun t => (t.pending, t.resp, t.turns)) = some (none, 0x010000F0#32, [.present 0x020000C3#32]) := by decide

/-- 95: P4, step 2: reset abandons the request in progress. -/
theorem test_reset : (nextOf (step (inProgress 0x01010203#32 [.reset]))).map
    (fun t => (t.pending, t.respValid, t.turns)) = some (none, false, []) := by decide

/-- 95: P4, a read of RESP at step 0 is a fault. -/
theorem test_early_read : faultsWith .earlyRead (step (withTurns [.readResp])) = true := by decide

/-- R86: a read of RESP hands over the response word and keeps it. -/
theorem test_read_resp : (nextOf (step (answered 0x01FF0000#32 [.readResp]))).map
    (fun t => (t.reads, t.resp, t.respValid)) = some ([.resp 0x01FF0000#32], 0x01FF0000#32, true) := by decide

/-- R86: RESP_VALID may be read at any time. -/
theorem test_read_valid : (nextOf (step (inProgress 0x01010203#32 [.readValid]))).map
    (fun t => (t.reads, t.pending)) = some ([.valid false], some 0x01010203#32) := by decide

/-- 93: bits [27:25] are never 1. -/
theorem test_reserved_response_bits :
    refusesWith .reservedResponseBits (step (answered 0x02000000#32 [.readResp])) = true := by decide

/-- 93: ECODE is never 3 to 7. -/
theorem test_reserved_ecode : refusesWith .reservedEcode (step (answered 0xB0000000#32 [.readResp])) = true := by
  decide

/-- With nothing presented and nothing in progress a step changes nothing. -/
theorem test_idle : nextOf (step State.reset) = some State.reset := by decide

/-- R87: the run of one request is over when it is accepted and completed, not before. -/
theorem test_run_over : runOver 0 (withTurns [.present 0x01010203#32]) = false ∧
    runOver 1 (withTurns [.present 0x01010203#32]) = false ∧
    runOver 2 (withTurns [.present 0x01010203#32]) = true := by decide

/-- 93, R87, 95: P4: a run whose request was overtaken by reset is not over, also after it was presented again and
answered; a reset between requests abandons none. -/
theorem test_run_abandoned : runOver 2 (withTurns [.present 0x01010203#32, .reset]) = false ∧
    runOver 4 (withTurns [.present 0x01010203#32, .reset, .present 0x01010203#32]) = false ∧
    runOver 3 (withTurns [.present 0x01010203#32, .block, .reset]) = true := by decide

/-- R75: the step of one instance leaves the other as it was. -/
theorem test_instances :
    (match stepInstance 1 [State.reset, inProgress 0x020000C0#32 []] with
      | .next system => system.map (·.resp)
      | .fault _ => []
      | .refused _ => []) = [0x00000000#32, 0x01000000#32] := by decide

/-! ### The assembler (R44; 95: P1, P3) -/

/-- `quantize 255, 0, 0` -/
theorem test_asm_quantize : assembleText
    ['q', 'U', 'A', 'N', 'T', 'I', 'Z', 'E', ' ', '2', '5', '5', ',', ' ', '0', ',', '0'] =
      .ok (some 0x01FF0000#32) := by decide

/-- `EXPAND 0xF3` with a comment after it -/
theorem test_asm_expand : assembleText
    [' ', 'E', 'X', 'P', 'A', 'N', 'D', ' ', '0', 'x', 'F', '3', ' ', ';', 'r', ',', '1'] =
      .ok (some 0x020000F3#32) := by decide

/-- `.word 0x0300FF00` -/
theorem test_asm_word : assembleText
    ['.', 'w', 'o', 'r', 'd', ' ', '0', 'x', '0', '3', '0', '0', 'F', 'F', '0', '0'] =
      .ok (some 0x0300FF00#32) := by decide

/-- `EXPAND 256` is refused, `EXPAND` without an operand is no request, a blank line gives no word. -/
theorem test_asm_refuses :
    assembleText ['E', 'X', 'P', 'A', 'N', 'D', ' ', '2', '5', '6'] = .error .outOfRange ∧
    assembleText ['E', 'X', 'P', 'A', 'N', 'D'] = .error .syntaxError ∧
    assembleText [' ', ';', 'x'] = .ok none := by decide

/-- A text of three lines, one of them blank, gives its two words in order; a bad line refuses the text. -/
theorem test_asm_lines :
    assembleLines [['E', 'X', 'P', 'A', 'N', 'D', ' ', '3'], [], ['.', 'w', 'o', 'r', 'd', ' ', '0']] =
      .ok [0x02000003#32, 0x00000000#32] ∧
    assembleLines [['E', 'X', 'P', 'A', 'N', 'D', ' ', '3'], ['N', 'O', 'P']] = .error .syntaxError := by decide

/-! ### Witnesses: the hypotheses of the obligations can be met -/

/-- A latch that holds the response of a request meets the invariant. -/
theorem answered_inv (q : Word) (ts : List Turn) : (answered (response q) ts).Inv :=
  ⟨(fun h => nomatch h), fun _ => ⟨q, rfl⟩⟩

/-- A request in progress after reset meets the invariant. -/
theorem inProgress_inv (w : Word) (ts : List Turn) : (inProgress w ts).Inv :=
  ⟨fun _ => rfl, fun h => nomatch h⟩

theorem witness_EncodeDecode : decode 0x01FFFFFF#32 = .ok (.quantize 0xFF#8 0xFF#8 0xFF#8) ∧
    decode 0x020000FF#32 = .ok (.expand 0xFF#8) := by decide

/-- The words where the ranges of the decoder meet. -/
theorem witness_DecodeByRange : decode 0x00FFFFFF#32 = .error .illegalOp ∧
    decode 0x01000000#32 = .ok (.quantize 0#8 0#8 0#8) ∧ decode 0x02000000#32 = .ok (.expand 0#8) ∧
    decode 0x02000100#32 = .error .reservedNonzero ∧ decode 0x03000000#32 = .error .illegalOp := by decide

/-- QUANTIZE completes at the limits of its operands (95: Q1, Q2). -/
theorem witness_QuantizeCompletes :
    (nextOf (exec (.quantize 0#8 0#8 0#8) State.reset)).map (·.resp) = some 0x010000C0#32 ∧
    (nextOf (exec (.quantize 255#8 255#8 255#8) State.reset)).map (·.resp) = some 0x010000FF#32 := by decide

/-- EXPAND completes at the limits of its operand (95: E1, E13). -/
theorem witness_ExpandCompletes :
    (nextOf (exec (.expand 0#8) State.reset)).map (·.resp) = some 0x00000000#32 ∧
    (nextOf (exec (.expand 255#8) State.reset)).map (·.resp) = some 0x01FFFFFF#32 := by decide

theorem witness_QuantizeRequest : (inProgress 0x01404040#32 [.block]).blockMoves = true ∧
    (inProgress 0x01404040#32 [.block]).pending = some 0x01404040#32 ∧
    (0x01404040#32 : Word).extractLsb' 24 8 = 0x01#8 := by decide

theorem witness_ExpandRequest : (inProgress 0x020000F0#32 []).blockMoves = true ∧
    (inProgress 0x020000F0#32 []).pending = some 0x020000F0#32 ∧
    (0x020000F0#32 : Word).extractLsb' 8 24 = 0x020000#24 := by decide

/-- The four levels at both ends of each range (R50). -/
theorem witness_QuantizeLevels : [0x00#8, 0x3F#8, 0x40#8, 0x7F#8, 0x80#8, 0xBF#8, 0xC0#8, 0xFF#8].map trunc2 =
    [0#2, 0#2, 1#2, 1#2, 2#2, 2#2, 3#2, 3#2] := by decide

theorem witness_QuantizeLevels_lanes :
    let c : Color24 := ⟨0x3F#8, 0x40#8, 0xFF#8⟩
    let lanes : List (Byte × Field) :=
      [(c.r, c6Red (quantizeColor c)), (c.g, c6Green (quantizeColor c)), (c.b, c6Blue (quantizeColor c))]
    (0x3F#8, 0#2) ∈ lanes ∧ (0x40#8, 1#2) ∈ lanes ∧ (0xFF#8, 3#2) ∈ lanes := by decide

/-- Two colours that agree in one channel only, one pair for each lane. -/
theorem witness_QuantizeLanes : quantizeColor ⟨0x40#8, 0#8, 0#8⟩ ≠ quantizeColor ⟨0x40#8, 0xFF#8, 0xFF#8⟩ ∧
    quantizeColor ⟨0#8, 0x40#8, 0#8⟩ ≠ quantizeColor ⟨0xFF#8, 0x40#8, 0xFF#8⟩ ∧
    quantizeColor ⟨0#8, 0#8, 0x40#8⟩ ≠ quantizeColor ⟨0xFF#8, 0xFF#8, 0x40#8⟩ := by decide

theorem witness_QuantizeFibres : 0xC0 ≤ (0xC0#8 : Byte).toNat ∧ 0xC0 ≤ (0xFF#8 : Byte).toNat := by decide

theorem witness_QuantizeMonotone : (0x3F#8 : Byte) ≤ 0x40#8 ∧ trunc2 0x3F#8 < trunc2 0x40#8 := by decide

/-- The corners of the sentinel's box are in it, their neighbours are not (R55). -/
theorem witness_QuantizeSentinel : quantizeColor ⟨0xC0#8, 0x3F#8, 0xC0#8⟩ = 0xF3#8 ∧
    quantizeColor ⟨0xBF#8, 0x3F#8, 0xC0#8⟩ ≠ 0xF3#8 ∧ quantizeColor ⟨0xC0#8, 0x40#8, 0xC0#8⟩ ≠ 0xF3#8 ∧
    quantizeColor ⟨0xC0#8, 0x3F#8, 0xBF#8⟩ ≠ 0xF3#8 := by decide

theorem witness_ExpandMarker : (0xC3#8 : Byte).extractLsb' 0 6 = (0x03#8 : Byte).extractLsb' 0 6 ∧
    (0xC3#8 : Byte).extractLsb' 6 2 = 0b11#2 ∧ (0x03#8 : Byte).extractLsb' 6 2 ≠ 0b11#2 := by decide

theorem witness_ExpandRange : (0x40#8 : Byte) ∈ [0x00#8, 0x00#8 ^^^ 0x40#8, 0x00#8 ^^^ 0x80#8, 0x00#8 ^^^ 0xC0#8] ∧
    (0x55#8 : Byte) ∈ [(expandColor 0xC1#8).r, (expandColor 0xC1#8).g, (expandColor 0xC1#8).b] := by decide

theorem witness_QuantizeInvertsExpand : 0xC0 ≤ (0xC0#8 : Byte).toNat ∧
    (nextOf (exec (.expand 0xC0#8) State.reset)).isSome = true := by decide

theorem witness_RequantizeIdempotent : (0x55#8 : Byte) ∈ [(expandColor (quantizeColor ⟨0x40#8, 0#8, 0#8⟩)).r,
    (expandColor (quantizeColor ⟨0x40#8, 0#8, 0#8⟩)).g, (expandColor (quantizeColor ⟨0x40#8, 0#8, 0#8⟩)).b] := by
  decide

/-- The counterexample to the source's losing condition, and a colour that returns (95: L1, L2). -/
theorem witness_ExpandQuantizeError : expandColor (quantizeColor ⟨0x40#8, 0#8, 0#8⟩) = ⟨0x55#8, 0#8, 0#8⟩ ∧
    expandColor (quantizeColor ⟨0x55#8, 0#8, 0#8⟩) = ⟨0x55#8, 0#8, 0#8⟩ := by decide

theorem witness_ExpandLanes : (0x01#8 : Byte).extractLsb' 0 2 = (0xFD#8 : Byte).extractLsb' 0 2 ∧
    (0x04#8 : Byte).extractLsb' 2 2 = (0xF7#8 : Byte).extractLsb' 2 2 ∧
    (0x10#8 : Byte).extractLsb' 4 2 = (0xDF#8 : Byte).extractLsb' 4 2 ∧
    (0x40#8 : Byte).extractLsb' 6 2 = (0x7F#8 : Byte).extractLsb' 6 2 := by decide

/-- OP 0x00, the first and the last reserved OP above EXPAND. -/
theorem witness_IllegalOpAnswer : (inProgress 0x00000000#32 []).blockMoves = true ∧
    (inProgress 0x00000000#32 []).pending = some 0x00000000#32 ∧
    (0x00000000#32 : Word).extractLsb' 24 8 = 0x00#8 ∧
    0x03 ≤ ((0x03000000#32 : Word).extractLsb' 24 8).toNat ∧
    0x03 ≤ ((0xFFFFFFFF#32 : Word).extractLsb' 24 8).toNat := by decide

theorem witness_ReservedNonzeroAnswer : (inProgress 0x02000100#32 [.block]).blockMoves = true ∧
    (inProgress 0x02000100#32 [.block]).pending = some 0x02000100#32 ∧
    (0x02000100#32 : Word).extractLsb' 24 8 = 0x02#8 ∧ (0x02000100#32 : Word).extractLsb' 8 16 ≠ 0#16 ∧
    (0x02800000#32 : Word).extractLsb' 8 16 ≠ 0#16 := by decide

/-- Responses with ERR = 0 and with ERR = 1, of each code. -/
theorem witness_ResponseLayout : (response 0x020000F0#32).extractLsb' 31 1 = 0#1 ∧
    (response 0x00000000#32).extractLsb' 31 1 = 1#1 ∧ (response 0x00000000#32).extractLsb' 28 3 = 1#3 ∧
    (response 0x02000100#32).extractLsb' 31 1 = 1#1 ∧ (response 0x02000100#32).extractLsb' 28 3 = 2#3 := by decide

theorem witness_TransactionFaultReported : decode 0x020000F0#32 = .ok (.expand 0xF0#8) ∧
    decode 0x00000000#32 = .error .illegalOp ∧ decode 0x02000100#32 = .error .reservedNonzero := by decide

theorem witness_StepRunsDecoded : (inProgress 0x020000F0#32 [.present 0#32]).blockMoves = true ∧
    (inProgress 0x020000F0#32 [.present 0#32]).pending = some 0x020000F0#32 ∧
    decode 0x020000F0#32 = .ok (.expand 0xF0#8) := by decide

theorem witness_AcceptStep : (withTurns [.present 0x01010203#32]).turns = .present 0x01010203#32 :: [] ∧
    (withTurns [.present 0x01010203#32]).pending = none ∧
    (inProgress 0x010000FF#32 [.present 0x01010203#32]).turns = .present 0x01010203#32 :: [] ∧
    (inProgress 0x010000FF#32 [.present 0x01010203#32]).pending = some 0x010000FF#32 := by decide

/-- The block's turn with a request in progress; also used for `ResponseByRequestAlone`. -/
theorem witness_CompleteStep : (inProgress 0x00000000#32 []).blockMoves = true ∧
    (inProgress 0x00000000#32 []).pending = some 0x00000000#32 ∧
    (inProgress 0x00000000#32 [.block]).blockMoves = true ∧
    (inProgress 0x00000000#32 [.block]).pending = some 0x00000000#32 := by decide

theorem witness_ResponseByRequestAlone : (inProgress 0x020000F0#32 []).blockMoves = true ∧
    { inProgress 0x020000F0#32 [.block] with resp := 0x90000000#32, draws := 7 }.blockMoves = true ∧
    (inProgress 0x020000F0#32 []).pending =
      { inProgress 0x020000F0#32 [.block] with resp := 0x90000000#32, draws := 7 }.pending := by decide

theorem witness_ResetStep : (inProgress 0x01010203#32 [.reset, .block]).turns = .reset :: [.block] := by decide

theorem witness_ResetAbandons : (inProgress 0x01010203#32 [.reset, .block]).turns = .reset :: [.block] ∧
    [Turn.block].any Turn.isPresent = false ∧
    (match core.run 2 (inProgress 0x01010203#32 [.reset, .block]) with
      | .next t => !t.respValid
      | .fault _ => false
      | .refused _ => false) = true := by decide

theorem witness_IdleStep : (withTurns [.block]).blockMoves = true ∧ (withTurns [.block]).pending = none := by decide

theorem witness_EarlyReadFaults : (withTurns [.readResp]).turns = .readResp :: [] ∧
    (withTurns [.readResp]).respValid = false := by decide

/-- One read of each kind, followed by another turn; two reads in a row are the next witness. -/
theorem witness_ReadsRepeat_one : (answered (response 0x020000F0#32) [.readResp, .reset]).Inv ∧
    (answered (response 0x020000F0#32) [.readResp, .reset]).turns = .readResp :: [.reset] ∧
    (answered (response 0x020000F0#32) [.readResp, .reset]).respValid = true ∧
    (inProgress 0x020000F0#32 [.readValid, .block]).Inv ∧
    (inProgress 0x020000F0#32 [.readValid, .block]).turns = .readValid :: [.block] :=
  ⟨answered_inv _ _, by decide, by decide, inProgress_inv _ _, by decide⟩

theorem witness_ReadsRepeat : (answered (response 0x020000F0#32) [.readResp, .readResp]).Inv ∧
    (answered (response 0x020000F0#32) [.readResp, .readResp]).turns = .readResp :: .readResp :: [] ∧
    (answered (response 0x020000F0#32) [.readResp, .readResp]).respValid = true ∧
    (answered (response 0x020000F0#32) [.readValid, .readValid]).Inv ∧
    (answered (response 0x020000F0#32) [.readValid, .readValid]).turns = .readValid :: .readValid :: [] :=
  ⟨answered_inv _ _, by decide, by decide, answered_inv _ _, by decide⟩

theorem witness_InvariantKept : (inProgress 0x020000F0#32 []).Inv ∧
    (nextOf (step (inProgress 0x020000F0#32 []))).isSome = true :=
  ⟨inProgress_inv _ _, by decide⟩

theorem witness_StopsOnlyOnEarlyRead : (inProgress 0x020000F0#32 [.readResp]).Inv ∧
    faultsWith .earlyRead (step (inProgress 0x020000F0#32 [.readResp])) = true :=
  ⟨inProgress_inv _ _, by decide⟩

/-- Steps that answer with RESP_VALID set, kept and cleared. -/
theorem witness_RespValidRule :
    (nextOf (step (inProgress 0x020000F0#32 []))).map (·.respValid) = some true ∧
    (nextOf (step (answered 0x010000C0#32 [.readValid]))).map (·.respValid) = some true ∧
    (nextOf (step (answered 0x010000C0#32 [.reset]))).map (·.respValid) = some false := by decide

theorem witness_RespHeld : (answered (response 0x020000F0#32) [.readResp]).Inv ∧
    (nextOf (step (answered (response 0x020000F0#32) [.readResp]))).isSome = true ∧
    (answered (response 0x020000F0#32) [.readResp]).respValid = true ∧
    (answered (response 0x020000F0#32) [.readResp]).accepts = false ∧
    (answered (response 0x020000F0#32) [.readResp]).resets = false :=
  ⟨answered_inv _ _, by decide, by decide, by decide, by decide⟩

/-- A request in progress kept, completed and abandoned. -/
theorem witness_PendingHeld :
    (nextOf (step (inProgress 0x020000F0#32 [.readValid]))).map (·.pending) = some (some 0x020000F0#32) ∧
    (nextOf (step (inProgress 0x020000F0#32 [.block]))).map (·.pending) = some none ∧
    (nextOf (step (inProgress 0x020000F0#32 [.reset]))).map (·.pending) = some none := by decide

theorem witness_ErrorsDoNotStick :
    (withTurns [.present 0x020000F3#32, .block]).turns = .present 0x020000F3#32 :: .block :: [] ∧
    (withTurns [.present 0x020000F3#32, .block]).pending = none := by decide

theorem witness_AnsweredInOrder : (withTurns [.present 0x01FF0000#32, .present 0x00000000#32]).pending = none ∧
    (withTurns [.present 0x01FF0000#32, .present 0x00000000#32]).turns =
      [0x01FF0000#32, 0x00000000#32].map Turn.present := by decide

theorem witness_CallerReadsInOrder :
    (withTurns (callerTurns [0x01FF0000#32, 0x00000000#32] ++ [.reset])).pending = none ∧
    (withTurns (callerTurns [0x01FF0000#32, 0x00000000#32] ++ [.reset])).turns =
      callerTurns [0x01FF0000#32, 0x00000000#32] ++ [.reset] := by decide

theorem witness_PendingCompletes : (inProgress 0x01010203#32 [.readValid, .readValid, .block]).Inv ∧
    (inProgress 0x01010203#32 [.readValid, .readValid, .block]).pending = some 0x01010203#32 ∧
    (inProgress 0x01010203#32 [.readValid, .readValid, .block]).turns = List.replicate 2 .readValid ++ [.block] ∧
    State.blockMoves { inProgress 0x01010203#32 [.readValid, .readValid, .block] with turns := [.block] } = true :=
  ⟨inProgress_inv _ _, by decide, by decide, by decide⟩

/-- Instance 0 answers while instance 1 is about to make an early read. -/
theorem witness_InstancesIndependent_frame :
    [inProgress 0x020000C0#32 [], withTurns [.readResp]][0]? = some (inProgress 0x020000C0#32 []) ∧
    (nextOf (step (inProgress 0x020000C0#32 []))).isSome = true ∧
    faultsWith .earlyRead (step (withTurns [.readResp])) = true := by decide

/-- A run with a poll and a waiting presentation abandons no request, and is over after five steps. -/
theorem witness_ObservationOfRun :
    (nextOf (core.run 5 (withTurns [.present 0x01FF0000#32, .readValid, .present 0x00000000#32]))).isSome = true ∧
    abandoned 5 (withTurns [.present 0x01FF0000#32, .readValid, .present 0x00000000#32]) = [] ∧
    accepted 5 (withTurns [.present 0x01FF0000#32, .readValid, .present 0x00000000#32]) =
      [0x01FF0000#32, 0x00000000#32] ∧
    runOver 5 (withTurns [.present 0x01FF0000#32, .readValid, .present 0x00000000#32]) = true := by decide

theorem witness_AbandonedRunNotOver :
    core.run 0 (inProgress 0x01010203#32 [.reset]) = .next (inProgress 0x01010203#32 [.reset]) ∧
    (inProgress 0x01010203#32 [.reset]).resets = true ∧
    (inProgress 0x01010203#32 [.reset]).pending.isSome = true ∧ 0 < 1 :=
  ⟨rfl, by decide, by decide, by decide⟩

theorem witness_InstancesIndependent : (0 : Nat) ≠ 1 ∧
    (∃ left, stepInstance 0 [inProgress 0x020000C0#32 [], inProgress 0x00000000#32 []] = .next left) ∧
    (∃ right, stepInstance 1 [inProgress 0x020000C0#32 [], inProgress 0x00000000#32 []] = .next right) :=
  ⟨by decide, ⟨_, rfl⟩, ⟨_, rfl⟩⟩

/-- Each written form at its upper limit and one above it. -/
theorem witness_AssemblerForms : assemble (.quantize 255 255 255) = .ok 0x01FFFFFF#32 ∧
    assemble (.quantize 255 256 255) = .error .outOfRange ∧ assemble (.expand 255) = .ok 0x020000FF#32 ∧
    assemble (.expand 256) = .error .outOfRange ∧ assemble (.word 0xFFFFFFFF) = .ok 0xFFFFFFFF#32 ∧
    assemble (.word 0x100000000) = .error .outOfRange := by decide

end Sys2Proof.Tests
end

section
/-! PROOFS. The latch: its invariant, what sets, clears and holds `RESP_VALID` and `RESP`, and what the response
depends on; and the Color6 bytes QUANTIZE can produce. -/

namespace Sys2Proof.Machine

/-! ### What the invariant reads of a state -/

/-- The invariant reads the latch and `PENDING` alone. -/
theorem State.Inv.of_same_latch {s t : State} (h : s.Inv) (hresp : t.resp = s.resp)
    (hvalid : t.respValid = s.respValid) (hpending : t.pending = s.pending) : t.Inv where
  pending_invalid := by rw [hpending, hvalid]; exact h.pending_invalid
  valid_response := by rw [hresp, hvalid]; exact h.valid_response

/-- Where no response is valid the invariant asks nothing. -/
theorem State.Inv.of_invalid {s : State} (h : s.respValid = false) : s.Inv where
  pending_invalid _ := h
  valid_response hv := by simp [h] at hv

/-- COMPLETE leads to a state that meets the invariant, from any state. -/
theorem State.respond_response_inv (s : State) (w : Word) : (s.respond (response w)).Inv where
  pending_invalid hp := by simp at hp
  valid_response _ := ⟨w, s.respond_resp _⟩

/-- Under the invariant a valid response excludes a request in progress. -/
theorem State.Inv.pending_eq_none {s : State} (h : s.Inv) (hv : s.respValid = true) : s.pending = none := by
  cases hp : s.pending with
  | none => rfl
  | some w => simp [h.pending_invalid (by simp [hp])] at hv

/-! ### Which step each kind of turn is -/

section kinds

variable {s : State} {rest : List Turn}

theorem State.completes_eq_of_blockMoves (h : s.blockMoves = true) : s.completes = s.pending.isSome := by
  rw [State.completes, h, Bool.true_and]

theorem State.accepts_of_blockMoves (h : s.blockMoves = true) : s.accepts = false := by
  unfold State.blockMoves at h
  unfold State.accepts
  split at h <;> simp_all

theorem State.resets_of_blockMoves (h : s.blockMoves = true) : s.resets = false := by
  unfold State.blockMoves at h
  unfold State.resets
  split at h <;> simp_all

theorem State.accepts_of_present {w : Word} (ht : s.turns = .present w :: rest) (hp : s.pending = none) :
    s.accepts = true := by
  simp [State.accepts, ht, hp]

theorem State.completes_of_pending_none (hp : s.pending = none) : s.completes = false := by
  rw [State.completes, hp, Option.isSome_none, Bool.and_false]

theorem State.resets_of_reset (ht : s.turns = .reset :: rest) : s.resets = true := by
  simp [State.resets, ht]

theorem State.completes_of_reset (ht : s.turns = .reset :: rest) : s.completes = false := by
  simp [State.completes, State.blockMoves, ht]

/-- A read by the caller is none of the block's three steps. -/
theorem State.kind_of_read {turn : Turn} (hr : turn = .readValid ∨ turn = .readResp) (ht : s.turns = turn :: rest) :
    s.completes = false ∧ s.accepts = false ∧ s.resets = false := by
  rcases hr with rfl | rfl <;> simp [State.completes, State.blockMoves, State.accepts, State.resets, ht]

end kinds

/-! ### What a step does to the latch -/

/-- The four things a step that answers can do to the latch and `PENDING`: complete the request in
progress, accept one, reset (both of which clear `RESP_VALID`), or leave all three fields as they were. -/
theorem step_latch_cases {s t : State} (h : step s = .next t) :
    (s.completes = true ∧ s.accepts = false ∧ s.resets = false ∧
      ∃ w, s.pending = some w ∧ t = s.useBlockTurn.respond (response w)) ∨
    (s.completes = false ∧ s.accepts = true ∧ t.respValid = false) ∨
    (s.completes = false ∧ s.resets = true ∧ t.respValid = false) ∨
    (s.completes = false ∧ s.accepts = false ∧ s.resets = false ∧
      t.resp = s.resp ∧ t.respValid = s.respValid ∧ t.pending = s.pending) := by
  rcases step_cases h with ⟨hb, hp, rfl⟩ | ⟨w, hb, hp, rfl⟩ | ⟨w, rest, ht, hp, rfl⟩ | ⟨rest, ht, rfl⟩ |
    ⟨rest, ht, -, rfl⟩ | ⟨rest, ht, rfl⟩
  · have hc := State.completes_of_pending_none hp
    exact .inr (.inr (.inr ⟨hc, State.accepts_of_blockMoves hb, State.resets_of_blockMoves hb, by simp⟩))
  · have hc : s.completes = true := by rw [State.completes_eq_of_blockMoves hb, hp]; rfl
    exact .inl ⟨hc, State.accepts_of_blockMoves hb, State.resets_of_blockMoves hb, w, hp, rfl⟩
  · exact .inr (.inl ⟨State.completes_of_pending_none hp, State.accepts_of_present ht hp, by simp⟩)
  · obtain ⟨hc, ha, hr⟩ := State.kind_of_read (.inl rfl) ht
    exact .inr (.inr (.inr ⟨hc, ha, hr, by simp⟩))
  · obtain ⟨hc, ha, hr⟩ := State.kind_of_read (.inr rfl) ht
    exact .inr (.inr (.inr ⟨hc, ha, hr, by simp⟩))
  · exact .inr (.inr (.inl ⟨State.completes_of_reset ht, State.resets_of_reset ht, by simp⟩))

/-- COMPLETE as a step equation: the response of the request in progress, with the block's turn used up. -/
theorem step_complete {s : State} {w : Word} (hb : s.blockMoves = true) (hp : s.pending = some w) :
    step s = .next (s.useBlockTurn.respond (response w)) := by
  rw [step_of_blockMoves hb, moveBlock_some (by simpa using hp)]

/-! ### Color6 bytes and their fields -/

/-- The marked bytes are those from 0xC0 on (R12, R13). -/
theorem c6Marker_eq_marker_iff (c6 : Byte) : c6Marker c6 = marker ↔ 0xC0 ≤ c6.toNat := by
  have hlt : c6.toNat < 256 := c6.isLt
  rw [c6Marker, marker, ← BitVec.toNat_inj, BitVec.extractLsb'_toNat, Nat.shiftRight_eq_div_pow]
  simp only [BitVec.toNat_ofNat, Nat.reducePow, Nat.reduceMod]
  omega

theorem c6Marker_packColor6 (r2 g2 b2 : Field) : c6Marker (packColor6 r2 g2 b2) = marker := by
  rw [c6Marker, packColor6, BitVec.extractLsb'_append_eq_of_le (by decide),
    BitVec.extractLsb'_append_eq_of_le (by decide), BitVec.extractLsb'_append_eq_left]

/-- A marked byte is put together again from its own fields (R12). -/
theorem packColor6_fields {c6 : Byte} (h : c6Marker c6 = marker) :
    packColor6 (c6Red c6) (c6Green c6) (c6Blue c6) = c6 := by
  rw [packColor6, ← h, c6Marker, c6Blue, c6Green, c6Red,
    BitVec.extractLsb'_append_extractLsb'_eq_extractLsb' (by decide),
    BitVec.extractLsb'_append_extractLsb'_eq_extractLsb' (by decide),
    BitVec.extractLsb'_append_extractLsb'_eq_extractLsb' (by decide)]
  exact BitVec.extractLsb'_eq_self

/-- Truncation undoes replication (R61). -/
theorem trunc2_rep2 : ∀ v2 : Field, trunc2 (rep2 v2) = v2 := by decide

/-- Every result of QUANTIZE is marked (R13). -/
theorem c6Marker_quantizeColor (c : Color24) : c6Marker (quantizeColor c) = marker :=
  c6Marker_packColor6 _ _ _

/-- On a marked byte QUANTIZE inverts EXPAND (R61). -/
theorem quantizeColor_expandColor {c6 : Byte} (h : c6Marker c6 = marker) : quantizeColor (expandColor c6) = c6 := by
  simp only [quantizeColor, expandColor, trunc2_rep2, packColor6_fields h]

end Sys2Proof.Machine

open Sys2Proof Sys2Proof.Machine

/-- Settles O39: a step answers a request, leaves the latch invalid, or keeps the three fields the invariant
reads. -/
theorem invariantKept : Obligations.InvariantKept := by
  intro s t hinv hstep
  rcases step_latch_cases hstep with ⟨-, -, -, w, -, rfl⟩ | ⟨-, -, hv⟩ | ⟨-, -, hv⟩ | ⟨-, -, -, hresp, hvalid, hp⟩
  · exact State.respond_response_inv _ w
  · exact .of_invalid hv
  · exact .of_invalid hv
  · exact hinv.of_same_latch hresp hvalid hp

/-- Settles O11: every result is marked, and a marked byte is the result for the colour EXPAND gives it. -/
theorem quantizeMarked : Obligations.QuantizeMarked := by
  refine ⟨c6Marker_quantizeColor, fun c6 => ⟨?_, fun h => ?_⟩⟩
  · rintro ⟨c, rfl⟩
    exact (c6Marker_eq_marker_iff _).mp (c6Marker_quantizeColor c)
  · exact ⟨expandColor c6, quantizeColor_expandColor ((c6Marker_eq_marker_iff c6).mpr h)⟩

/-- Settles O41, by what the step did to the latch. -/
theorem respValidRule : Obligations.RespValidRule := by
  intro s t hstep
  rcases step_latch_cases hstep with ⟨hc, -, -, w, -, rfl⟩ | ⟨hc, ha, hv⟩ | ⟨hc, hr, hv⟩ |
    ⟨hc, ha, hr, -, hv, -⟩
  · simp [hc]
  · simp [hc, ha, hv]
  · simp [hc, hr, hv]
  · simp [hc, ha, hr, hv]

/-- Settles O42: under the invariant a valid response leaves nothing to complete, so the latch is left alone. -/
theorem respHeld : Obligations.RespHeld := by
  intro s t hinv hstep hvalid ha hr
  have hp := hinv.pending_eq_none hvalid
  rcases step_latch_cases hstep with ⟨-, -, -, w, hw, -⟩ | ⟨-, ha', -⟩ | ⟨-, hr', -⟩ | ⟨-, -, -, hresp, hv, -⟩
  · simp [hp] at hw
  · simp [ha] at ha'
  · simp [hr] at hr'
  · exact ⟨hv.trans hvalid, hresp⟩

/-- Settles O44: both steps are the COMPLETE of the same request word. -/
theorem responseByRequestAlone : Obligations.ResponseByRequestAlone := by
  intro s u w hs hu hps hpu
  exact ⟨_, _, step_complete hs hps, step_complete hu hpu, rfl, rfl, rfl⟩

/-- Settles O35: the read is the step, and it faults before it looks at the word. -/
theorem earlyReadFaults : Obligations.EarlyReadFaults := by
  intro s rest ht hv
  rw [step_readResp ht, State.readResp, if_pos hv]

/-- Settles O37. -/
theorem resetValues : Obligations.ResetValues := ⟨rfl, rfl⟩

/-- Settles O38: no response is valid after reset. -/
theorem invariantAtReset : Obligations.InvariantAtReset := .of_invalid resetValues.1
end

section
/-! PROOFS. The caller's side: what a read hands over, one whole transaction, and the observation of a run. -/

namespace Sys2Proof.Machine

variable {s t : State}

/-! ### Every response can be read (R40, R66) -/

@[simp] theorem respReserved_packResponse (err : BitVec 1) (ecode : BitVec 3) (ok : BitVec 1) (data : BitVec 24) :
    respReserved (packResponse err ecode ok data) = 0#3 := by
  rw [respReserved, packResponse, BitVec.extractLsb'_append_eq_of_le (by decide),
    BitVec.extractLsb'_append_eq_of_le (by decide)]
  exact BitVec.extractLsb'_append_eq_right

@[simp] theorem respEcode_packResponse (err : BitVec 1) (ecode : BitVec 3) (ok : BitVec 1) (data : BitVec 24) :
    respEcode (packResponse err ecode ok data) = ecode := by
  rw [respEcode, packResponse, BitVec.extractLsb'_append_eq_of_le (by decide),
    BitVec.extractLsb'_append_eq_of_le (by decide), BitVec.extractLsb'_append_eq_of_le (by decide)]
  exact BitVec.extractLsb'_append_eq_right

/-- The three layouts a response can have (R41, R42, R43). -/
theorem response_cases (w : Word) :
    (∃ c6, response w = quantizeResponse c6) ∨ (∃ ok c, response w = expandResponse ok c) ∨
    (∃ e, response w = errorResponse e) := by
  unfold response
  split
  · exact .inl ⟨_, rfl⟩
  · exact .inr (.inl ⟨_, _, rfl⟩)
  · exact .inr (.inr ⟨_, rfl⟩)

theorem respReserved_response (w : Word) : respReserved (response w) = 0#3 := by
  rcases response_cases w with ⟨c6, h⟩ | ⟨ok, c, h⟩ | ⟨e, h⟩ <;> rw [h] <;> exact respReserved_packResponse ..

theorem respEcode_response_lt (w : Word) : respEcode (response w) < 3#3 := by
  rcases response_cases w with ⟨c6, h⟩ | ⟨ok, c, h⟩ | ⟨e, h⟩
  · rw [h, quantizeResponse, respEcode_packResponse]
    decide
  · rw [h, expandResponse, respEcode_packResponse]
    decide
  · rw [h, errorResponse, respEcode_packResponse]
    cases e <;> decide

/-! ### The caller's reads -/

/-- Under the invariant a read of a valid response is neither a fault nor refused (R27). -/
theorem State.Inv.step_readResp_valid {rest : List Turn} (hinv : s.Inv) (ht : s.turns = .readResp :: rest)
    (hv : s.respValid = true) : step s = .next (State.record { s with turns := rest } (.resp s.resp)) := by
  obtain ⟨w, hw⟩ := hinv.valid_response hv
  simp [step_readResp ht, State.readResp, hv, hw, respReserved_response, respEcode_response_lt]

/-- Neither a used turn nor a recorded read touches what the invariant speaks of. -/
theorem State.Inv.record {turns : List Turn} (hinv : s.Inv) (r : CallerRead) :
    (State.record { s with turns := turns } r).Inv :=
  hinv.of_same_latch rfl rfl rfl

/-! ### One whole transaction -/

/-- ACCEPT and then COMPLETE of the request `w` (R77, R78). -/
def State.transact (s : State) (w : Word) : State := (s.accept w).useBlockTurn.respond (response w)

@[simp] theorem State.transact_resp (s : State) (w : Word) : (s.transact w).resp = response w := rfl
@[simp] theorem State.transact_respValid (s : State) (w : Word) : (s.transact w).respValid = true := rfl
@[simp] theorem State.transact_pending (s : State) (w : Word) : (s.transact w).pending = none := rfl
@[simp] theorem State.transact_draws (s : State) (w : Word) : (s.transact w).draws = s.draws + 1 := by
  simp [State.transact]
@[simp] theorem State.transact_reads (s : State) (w : Word) : (s.transact w).reads = s.reads := by
  simp [State.transact]
@[simp] theorem State.transact_turns (s : State) (w : Word) : (s.transact w).turns = s.useBlockTurn.turns := by
  simp [State.transact, State.useBlockTurn_turns]

section transaction

variable {w : Word} {rest : List Turn}
variable (ht : s.turns = .present w :: rest) (hp : s.pending = none)
  (hb : (State.accept { s with turns := rest } w).blockMoves = true)
include ht hp hb

/-- A request that is presented while none is in progress, and that the block answers at once, is one
transaction. -/
theorem run_transact (n : Nat) : core.run (n + 2) s = core.run n (State.transact { s with turns := rest } w) := by
  rw [run_of_next (step_present_none ht hp), run_of_next (step_complete hb (State.accept_pending _ w)),
    State.transact]

theorem observation_transact (n : Nat) :
    observation (n + 2) s = response w :: observation n (State.transact { s with turns := rest } w) := by
  rw [observation_of_not_completes (step_present_none ht hp) (State.completes_of_pending_none hp),
    observation_of_completes (step_complete hb (State.accept_pending _ w))
      (by rw [State.completes_eq_of_blockMoves hb, State.accept_pending, Option.isSome_some]),
    State.respond_resp, State.transact]

theorem abandoned_transact (n : Nat) :
    abandoned (n + 2) s = abandoned n (State.transact { s with turns := rest } w) := by
  rw [abandoned_of_not_resets (step_present_none ht hp) (by simp [State.resets, ht]),
    abandoned_of_not_resets (step_complete hb (State.accept_pending _ w)) (State.resets_of_blockMoves hb),
    State.transact]

end transaction

/-! ### Requests presented one after another -/

/-- A request in progress is completed while the next presentation waits, and when none is left. -/
theorem blockMoves_of_presents {qs : List Word} (ht : s.turns = qs.map Turn.present)
    (hp : s.pending.isSome = true) : s.blockMoves = true := by
  cases qs <;> simp [State.blockMoves, ht, hp]

/-- A waiting presentation goes on waiting while the block moves. -/
theorem useBlockTurn_turns_of_presents {qs : List Word} (ht : s.turns = qs.map Turn.present) :
    s.useBlockTurn.turns = qs.map Turn.present := by
  cases qs <;> simp [State.useBlockTurn_turns, ht]

/-- The run through a sequence of presentations: two steps a request, nothing abandoned and nothing left over. -/
theorem run_presents (qs : List Word) (hp : s.pending = none) (ht : s.turns = qs.map Turn.present) :
    observation (2 * qs.length) s = qs.map response ∧ abandoned (2 * qs.length) s = [] ∧
    ∃ t, core.run (2 * qs.length) s = .next t ∧ t.turns = [] ∧ t.pending = none := by
  induction qs generalizing s with
  | nil => exact ⟨rfl, rfl, s, rfl, ht, hp⟩
  | cons q qs ih =>
    have hb : (State.accept { s with turns := qs.map Turn.present } q).blockMoves = true :=
      blockMoves_of_presents rfl rfl
    obtain ⟨hobs, haban, hrun⟩ := ih (State.transact_pending { s with turns := qs.map Turn.present } q)
      ((State.transact_turns _ q).trans (useBlockTurn_turns_of_presents rfl))
    rw [List.length_cons, Nat.mul_succ, observation_transact ht hp hb, abandoned_transact ht hp hb,
      run_transact ht hp hb]
    exact ⟨by rw [hobs, List.map_cons], haban, hrun⟩

/-! ### What a run does, step by step -/

/-- A run of `n + 1` steps that answers begins with a step that answers. -/
theorem run_succ_next {n : Nat} (h : core.run (n + 1) s = .next t) :
    ∃ u, step s = .next u ∧ core.run n u = .next t := by
  cases hstep : step s with
  | next u => exact ⟨u, rfl, (run_of_next hstep).symm.trans h⟩
  | fault r => simp [Host.Core.run, hstep] at h
  | refused r => simp [Host.Core.run, hstep] at h

/-- What is collected from a run is what its first step gives, and then what the rest gives. -/
theorem collect_succ {pick : State → State → List Word} (n : Nat) (h : step s = .next t) :
    collect pick (n + 1) s = collect pick 1 s ++ collect pick n t := by
  rw [collect_of_next h, collect_of_next (n := 0) h, collect, List.append_nil]

@[simp] theorem observation_zero (s : State) : observation 0 s = [] := rfl
@[simp] theorem accepted_zero (s : State) : accepted 0 s = [] := rfl

/-- The account of a step that neither completes, accepts nor abandons a request: `PENDING` is as it was. -/
theorem step_account_of_quiet (h : step s = .next t) (hc : s.completes = false) (ha : s.accepts = false)
    (hp : t.pending = s.pending) :
    observation 1 s ++ t.pending.toList.map response = (s.pending.toList ++ accepted 1 s).map response := by
  rw [observation_of_not_completes h hc, accepted_of_not_accepts h ha, hp]
  simp

/-- One step's account: a request that is in progress before it, or is accepted by it, is answered by it or is in
progress after it, unless it is abandoned. -/
theorem step_account (h : step s = .next t) (hab : abandoned 1 s = []) :
    observation 1 s ++ t.pending.toList.map response = (s.pending.toList ++ accepted 1 s).map response := by
  rcases step_cases h with ⟨hb, hp, rfl⟩ | ⟨w, hb, hp, rfl⟩ | ⟨w, rest, ht, hp, rfl⟩ | ⟨rest, ht, rfl⟩ |
    ⟨rest, ht, -, rfl⟩ | ⟨rest, ht, rfl⟩
  · exact step_account_of_quiet h (State.completes_of_pending_none hp) (State.accepts_of_blockMoves hb) (by simp)
  · have hc : s.completes = true := by rw [State.completes_eq_of_blockMoves hb, hp, Option.isSome_some]
    rw [observation_of_completes h hc, accepted_of_not_accepts h (State.accepts_of_blockMoves hb), hp]
    simp
  · rw [observation_of_not_completes h (State.completes_of_pending_none hp),
      accepted_of_accepts h (State.accepts_of_present ht hp), hp]
    simp
  · obtain ⟨hc, ha, -⟩ := State.kind_of_read (.inl rfl) ht
    exact step_account_of_quiet h hc ha rfl
  · obtain ⟨hc, ha, -⟩ := State.kind_of_read (.inr rfl) ht
    exact step_account_of_quiet h hc ha rfl
  · rw [abandoned_of_resets h (State.resets_of_reset ht)] at hab
    have hp : s.pending = none := by
      rw [← Option.toList_eq_nil_iff]
      exact (List.append_eq_nil_iff.mp hab).1
    exact step_account_of_quiet h (State.completes_of_reset ht) (by simp [State.accepts, ht]) (by simp [hp])

/-- The account of a whole run: step after step, in order. -/
theorem run_account {n : Nat} (h : core.run n s = .next t) (hab : abandoned n s = []) :
    observation n s ++ t.pending.toList.map response = (s.pending.toList ++ accepted n s).map response := by
  induction n generalizing s with
  | zero =>
    cases h
    simp
  | succ n ih =>
    obtain ⟨u, hstep, hrun⟩ := run_succ_next h
    rw [abandoned, collect_succ n hstep, List.append_eq_nil_iff] at hab
    obtain ⟨hfirst, hlater⟩ := hab
    calc
      observation (n + 1) s ++ t.pending.toList.map response
      _ = observation 1 s ++ (observation n u ++ t.pending.toList.map response) := by
        rw [observation, collect_succ n hstep, List.append_assoc]
      _ = observation 1 s ++ u.pending.toList.map response ++ (accepted n u).map response := by
        rw [ih hrun hlater, List.map_append, List.append_assoc]
      _ = (s.pending.toList ++ accepted (n + 1) s).map response := by
        rw [step_account hstep hfirst, ← List.map_append, List.append_assoc, accepted,
          ← collect_succ n hstep]

/-- A run that is over has answered and ends with no request in progress (R87). -/
theorem pending_eq_none_of_runOver {n : Nat} (h : core.run n s = .next t) (hover : runOver n s = true) :
    t.pending = none := by
  simp only [runOver, h, State.settled, Bool.and_eq_true, Option.isNone_iff_eq_none] at hover
  obtain ⟨⟨hp, -⟩, -⟩ := hover
  exact hp

/-- A run that ends with no turn left and no request in progress, and that abandoned none, is over (R87). -/
theorem runOver_of_turns_nil {n : Nat} (h : core.run n s = .next t) (ht : t.turns = []) (hp : t.pending = none)
    (hab : abandoned n s = []) : runOver n s = true := by
  simp [runOver, h, State.settled, ht, hp, hab]

/-! ### A caller that reads after each request -/

/-- One request of such a caller: presented, answered on the block's turn, and read. -/
theorem run_caller {w : Word} {rest : List Turn} (ht : s.turns = .present w :: .block :: .readResp :: rest)
    (hp : s.pending = none) :
    ∃ t, (∀ n, core.run (n + 3) s = core.run n t) ∧ t.turns = rest ∧ t.pending = none ∧
      t.reads = s.reads ++ [.resp (response w)] := by
  have hread := (State.respond_response_inv _ w).step_readResp_valid
    (s := State.transact { s with turns := .block :: .readResp :: rest } w) (rest := rest) rfl rfl
  exact ⟨_, fun n => (run_transact ht hp rfl (n + 1)).trans (run_of_next hread), rfl, rfl, rfl⟩

end Sys2Proof.Machine

open Sys2Proof Sys2Proof.Machine

/-- Settles O52: the account of the run; a run that is over leaves no request in progress. -/
theorem observationOfRun : Obligations.ObservationOfRun := by
  intro n s t hrun hab
  have haccount := run_account hrun hab
  refine ⟨haccount, fun hover => ?_⟩
  rw [← haccount, pending_eq_none_of_runOver hrun hover, Option.toList_none, List.map_nil, List.append_nil]

/-- Settles O46, from the run through the presentations. -/
theorem answeredInOrder : Obligations.AnsweredInOrder := by
  intro qs s hp ht
  obtain ⟨hobs, hab, t, hrun, hturns, hpending⟩ := run_presents qs hp ht
  exact ⟨hobs, runOver_of_turns_nil hrun hturns hpending hab, t, hrun, hturns⟩

/-- Settles O47, by induction on the requests, one transaction and one read for each. -/
theorem callerReadsInOrder : Obligations.CallerReadsInOrder := by
  intro qs rest s hp ht
  induction qs generalizing s with
  | nil => exact ⟨s, rfl, (List.append_nil _).symm, ht, hp⟩
  | cons q qs ih =>
    obtain ⟨u, hrun, hturns, hpending, hreads⟩ := run_caller ht hp
    obtain ⟨t, ht⟩ := ih u hpending hturns
    refine ⟨t, ?_⟩
    rwa [List.length_cons, Nat.mul_succ, hrun, List.map_cons, ← List.singleton_append, ← List.append_assoc, ← hreads]

/-- Settles O36: a read of either kind is one record, and after it the next read finds the same latch. -/
theorem readsRepeat : Obligations.ReadsRepeat := by
  intro s rest hinv
  refine ⟨fun ht hv => hinv.step_readResp_valid ht hv, fun ht => step_readValid ht, fun ht hv => ?_, fun ht => ?_⟩
  · rw [run_of_next (hinv.step_readResp_valid ht hv), run_of_next ((hinv.record _).step_readResp_valid rfl hv)]
    simp [State.record, Host.Core.run]
  · rw [run_of_next (step_readValid ht), run_of_next (step_readValid rfl)]
    simp [State.readValid, State.record, Host.Core.run]
end

section
/-! PROOFS. The encodings: the request decoder and encoder (R32 to R37), what the operations write into the response
word (R40 to R43), and the written form of a request (R44). -/

namespace Sys2Proof

/-! ### The fields of an encoded operation (R34, R35) -/

section fields

variable (r g b c6 : Byte)

@[simp] theorem reqOp_encode_quantize : reqOp (encode (.quantize r g b)) = opQuantize := by
  rw [reqOp, encode, BitVec.extractLsb'_append_eq_of_le (by decide), BitVec.extractLsb'_append_eq_of_le (by decide)]
  exact BitVec.extractLsb'_append_eq_left

@[simp] theorem reqRed_encode_quantize : reqRed (encode (.quantize r g b)) = r := by
  rw [reqRed, encode, BitVec.extractLsb'_append_eq_of_le (by decide), BitVec.extractLsb'_append_eq_of_le (by decide)]
  exact BitVec.extractLsb'_append_eq_right

@[simp] theorem reqGreen_encode_quantize : reqGreen (encode (.quantize r g b)) = g := by
  rw [reqGreen, encode, BitVec.extractLsb'_append_eq_of_le (by decide)]
  exact BitVec.extractLsb'_append_eq_right

@[simp] theorem reqBlue_encode_quantize : reqBlue (encode (.quantize r g b)) = b :=
  BitVec.extractLsb'_append_eq_right

@[simp] theorem reqOp_encode_expand : reqOp (encode (.expand c6)) = opExpand := by
  rw [reqOp, encode, BitVec.extractLsb'_append_eq_of_le (by decide)]
  exact BitVec.extractLsb'_append_eq_left

@[simp] theorem reqReserved_encode_expand : reqReserved (encode (.expand c6)) = 0#16 := by
  rw [reqReserved, encode, BitVec.extractLsb'_append_eq_of_le (by decide)]
  exact BitVec.extractLsb'_append_eq_right

@[simp] theorem reqC6_encode_expand : reqC6 (encode (.expand c6)) = c6 :=
  BitVec.extractLsb'_append_eq_right

end fields

/-! ### A request word is put together again from its fields -/

section word

variable {w : Word}

theorem encode_quantize_fields (hop : reqOp w = opQuantize) :
    encode (.quantize (reqRed w) (reqGreen w) (reqBlue w)) = w := by
  rw [encode, ← hop, reqOp, reqRed, reqGreen, reqBlue,
    BitVec.extractLsb'_append_extractLsb'_eq_extractLsb' (by decide),
    BitVec.extractLsb'_append_extractLsb'_eq_extractLsb' (by decide),
    BitVec.extractLsb'_append_extractLsb'_eq_extractLsb' (by decide)]
  exact BitVec.extractLsb'_eq_self

theorem encode_expand_fields (hop : reqOp w = opExpand) (hrsv : reqReserved w = 0#16) :
    encode (.expand (reqC6 w)) = w := by
  rw [encode, ← hop, ← hrsv, reqOp, reqReserved, reqC6,
    BitVec.extractLsb'_append_extractLsb'_eq_extractLsb' (by decide),
    BitVec.extractLsb'_append_extractLsb'_eq_extractLsb' (by decide)]
  exact BitVec.extractLsb'_eq_self

/-! ### The decoder, one equation for each of its four results (R37) -/

theorem decode_of_opQuantize (hop : reqOp w = opQuantize) :
    decode w = .ok (.quantize (reqRed w) (reqGreen w) (reqBlue w)) := by
  rw [decode, if_pos hop]

theorem opExpand_ne_opQuantize : opExpand ≠ opQuantize := by decide

theorem decode_of_opExpand (hop : reqOp w = opExpand) :
    decode w = if reqReserved w = 0#16 then .ok (.expand (reqC6 w)) else .error .reservedNonzero := by
  rw [decode, if_neg (hop ▸ opExpand_ne_opQuantize), if_pos hop]

theorem decode_of_illegalOp (hq : reqOp w ≠ opQuantize) (hx : reqOp w ≠ opExpand) :
    decode w = .error .illegalOp := by
  rw [decode, if_neg hq, if_neg hx]

/-- The four kinds of request words. -/
theorem decode_cases (w : Word) :
    (reqOp w = opQuantize ∧ decode w = .ok (.quantize (reqRed w) (reqGreen w) (reqBlue w))) ∨
    (reqOp w = opExpand ∧ reqReserved w = 0#16 ∧ decode w = .ok (.expand (reqC6 w))) ∨
    (reqOp w = opExpand ∧ reqReserved w ≠ 0#16 ∧ decode w = .error .reservedNonzero) ∨
    (reqOp w ≠ opQuantize ∧ reqOp w ≠ opExpand ∧ decode w = .error .illegalOp) := by
  by_cases hq : reqOp w = opQuantize
  · exact .inl ⟨hq, decode_of_opQuantize hq⟩
  by_cases hx : reqOp w = opExpand
  · by_cases hrsv : reqReserved w = 0#16
    · exact .inr (.inl ⟨hx, hrsv, by rw [decode_of_opExpand hx, if_pos hrsv]⟩)
    · exact .inr (.inr (.inl ⟨hx, hrsv, by rw [decode_of_opExpand hx, if_neg hrsv]⟩))
  · exact .inr (.inr (.inr ⟨hq, hx, decode_of_illegalOp hq hx⟩))

/-- A word decodes to an operation exactly when it is that operation's request word (R34, R35, R38). -/
theorem decode_eq_ok_iff {i : Instr} : decode w = .ok i ↔ encode i = w := by
  constructor
  · intro h
    rcases decode_cases w with ⟨hop, hd⟩ | ⟨hop, hrsv, hd⟩ | ⟨-, -, hd⟩ | ⟨-, -, hd⟩ <;> cases hd.symm.trans h
    · exact encode_quantize_fields hop
    · exact encode_expand_fields hop hrsv
  · rintro rfl
    cases i with
    | quantize r g b => simp [decode_of_opQuantize]
    | expand c6 => simp [decode_of_opExpand]

/-! ### The kinds of words as ranges of numbers -/

theorem extractLsb'_eq_ofNat_div (start len : Nat) :
    w.extractLsb' start len = BitVec.ofNat len (w.toNat / 2 ^ start) := by
  rw [BitVec.extractLsb', Nat.shiftRight_eq_div_pow]

/-- OP is the number of whole blocks of `2^24` words below the word. -/
theorem reqOp_eq_iff (op : Byte) : reqOp w = op ↔ w.toNat / 2 ^ 24 = op.toNat := by
  rw [reqOp, ← BitVec.toNat_inj, BitVec.extractLsb'_toNat, Nat.shiftRight_eq_div_pow]
  have := w.isLt
  omega

theorem reqOp_eq_opQuantize_iff : reqOp w = opQuantize ↔ 2 ^ 24 ≤ w.toNat ∧ w.toNat < 2 ^ 25 := by
  rw [reqOp_eq_iff, show opQuantize.toNat = 1 from rfl]
  omega

theorem reqOp_eq_opExpand_iff : reqOp w = opExpand ↔ 2 ^ 25 ≤ w.toNat ∧ w.toNat < 3 * 2 ^ 24 := by
  rw [reqOp_eq_iff, show opExpand.toNat = 2 from rfl]
  omega

/-- The reserved bits of an EXPAND request are 0 in the lowest 2^8 words of its block. -/
theorem reqReserved_eq_zero_iff (hop : reqOp w = opExpand) : reqReserved w = 0#16 ↔ w.toNat < 2 ^ 25 + 2 ^ 8 := by
  obtain ⟨hlow, hhigh⟩ := reqOp_eq_opExpand_iff.mp hop
  rw [reqReserved, ← BitVec.toNat_inj, BitVec.extractLsb'_toNat, Nat.shiftRight_eq_div_pow, BitVec.toNat_zero]
  omega

/-- The four kinds of request words, told by their numbers. -/
theorem decode_range_cases (w : Word) :
    (2 ^ 24 ≤ w.toNat ∧ w.toNat < 2 ^ 25 ∧ decode w = .ok (.quantize (reqRed w) (reqGreen w) (reqBlue w))) ∨
    (2 ^ 25 ≤ w.toNat ∧ w.toNat < 2 ^ 25 + 2 ^ 8 ∧ decode w = .ok (.expand (reqC6 w))) ∨
    (2 ^ 25 + 2 ^ 8 ≤ w.toNat ∧ w.toNat < 3 * 2 ^ 24 ∧ decode w = .error .reservedNonzero) ∨
    (¬ (2 ^ 24 ≤ w.toNat ∧ w.toNat < 3 * 2 ^ 24) ∧ decode w = .error .illegalOp) := by
  rcases decode_cases w with ⟨hop, hd⟩ | ⟨hop, hrsv, hd⟩ | ⟨hop, hrsv, hd⟩ | ⟨hq, hx, hd⟩
  · obtain ⟨hlow, hhigh⟩ := reqOp_eq_opQuantize_iff.mp hop
    exact .inl ⟨hlow, hhigh, hd⟩
  · obtain ⟨hlow, -⟩ := reqOp_eq_opExpand_iff.mp hop
    exact .inr (.inl ⟨hlow, (reqReserved_eq_zero_iff hop).mp hrsv, hd⟩)
  · obtain ⟨-, hhigh⟩ := reqOp_eq_opExpand_iff.mp hop
    rw [Ne, reqReserved_eq_zero_iff hop, not_lt] at hrsv
    exact .inr (.inr (.inl ⟨hrsv, hhigh, hd⟩))
  · rw [Ne, reqOp_eq_opQuantize_iff] at hq
    rw [Ne, reqOp_eq_opExpand_iff] at hx
    exact .inr (.inr (.inr ⟨by omega, hd⟩))

/-! ### Which words decode to each result -/

theorem exists_decode_eq_quantize_iff :
    (∃ r g b, decode w = .ok (.quantize r g b)) ↔ 2 ^ 24 ≤ w.toNat ∧ w.toNat < 2 ^ 25 := by
  rcases decode_range_cases w with ⟨_, _, hd⟩ | ⟨_, _, hd⟩ | ⟨_, _, hd⟩ | ⟨_, hd⟩ <;> simp [hd] <;> omega

theorem exists_decode_eq_expand_iff :
    (∃ c6, decode w = .ok (.expand c6)) ↔ 2 ^ 25 ≤ w.toNat ∧ w.toNat < 2 ^ 25 + 2 ^ 8 := by
  rcases decode_range_cases w with ⟨_, _, hd⟩ | ⟨_, _, hd⟩ | ⟨_, _, hd⟩ | ⟨_, hd⟩ <;> simp [hd] <;> omega

theorem decode_eq_reservedNonzero_iff :
    decode w = .error .reservedNonzero ↔ 2 ^ 25 + 2 ^ 8 ≤ w.toNat ∧ w.toNat < 3 * 2 ^ 24 := by
  rcases decode_range_cases w with ⟨_, _, hd⟩ | ⟨_, _, hd⟩ | ⟨_, _, hd⟩ | ⟨_, hd⟩ <;> simp [hd] <;> omega

theorem decode_ne_illegalOp_iff :
    decode w ≠ .error .illegalOp ↔ 2 ^ 24 ≤ w.toNat ∧ w.toNat < 3 * 2 ^ 24 := by
  rcases decode_range_cases w with ⟨_, _, hd⟩ | ⟨_, _, hd⟩ | ⟨_, _, hd⟩ | ⟨_, hd⟩ <;> simp [hd] <;> omega

end word

/-! ### How many words lie in a range

The width is a variable, so that no proof here evaluates `Finset.range (2 ^ 32)`. -/

section counting

variable {width : Nat} {P : Nat → Prop} [DecidablePred P]

/-- How many words have a property that holds of those from number `a` up to number `b` and of no other. -/
theorem card_words_of_iff (a b : Nat) (hb : b ≤ 2 ^ width)
    (h : ∀ n, P n ↔ a ≤ (BitVec.ofNat width n).toNat ∧ (BitVec.ofNat width n).toNat < b) :
    ((Finset.range (2 ^ width)).filter P).card = b - a := by
  have hfilter : (Finset.range (2 ^ width)).filter P = Finset.Ico a b := by
    ext n
    rw [Finset.mem_filter, Finset.mem_range, Finset.mem_Ico, h, BitVec.toNat_ofNat]
    constructor
    · rintro ⟨hn, hP⟩
      rwa [Nat.mod_eq_of_lt hn] at hP
    · rintro ⟨hlow, hhigh⟩
      have hn : n < 2 ^ width := by omega
      exact ⟨hn, by rwa [Nat.mod_eq_of_lt hn], by rwa [Nat.mod_eq_of_lt hn]⟩
  rw [hfilter, Nat.card_Ico]

/-- How many words have a property that fails of those from number `a` up to number `b` and of no other. -/
theorem card_words_of_not_iff (a b : Nat) (hb : b ≤ 2 ^ width)
    (h : ∀ n, ¬ P n ↔ a ≤ (BitVec.ofNat width n).toNat ∧ (BitVec.ofNat width n).toNat < b) :
    ((Finset.range (2 ^ width)).filter P).card = 2 ^ width - (b - a) := by
  have htotal := Finset.card_filter_add_card_filter_not (s := Finset.range (2 ^ width)) P
  rw [card_words_of_iff a b hb h, Finset.card_range] at htotal
  omega

end counting

/-! ### A request word as the OR of its shifted fields -/

theorem encode_quantize_eq_or (r g b : Byte) : encode (.quantize r g b) =
    0x01000000#32 ||| r.setWidth 32 <<< 16 ||| g.setWidth 32 <<< 8 ||| b.setWidth 32 :=
  (BitVec.setWidth_eq _).symm.trans BitVec.setWidth_append_append_append_eq_shiftLeft_setWidth_or

theorem encode_expand_eq_or (c6 : Byte) : encode (.expand c6) = 0x02000000#32 ||| c6.setWidth 32 :=
  (BitVec.setWidth_eq _).symm.trans BitVec.setWidth_append_eq_shiftLeft_setWidth_or

theorem setWidth_ofNat_byte {n : Nat} (h : n ≤ 255) : (BitVec.ofNat 8 n).setWidth 32 = BitVec.ofNat 32 n :=
  BitVec.setWidth_ofNat_of_le_of_lt (by decide) (by omega)

end Sys2Proof

namespace Sys2Proof.Machine

/-! ### What an operation writes into the response word (R41, R42) -/

theorem quantizeResponse_eq_or (c6 : Byte) : quantizeResponse c6 = 0x01000000#32 ||| c6.setWidth 32 := by
  calc
    quantizeResponse c6 = ((0#1 ++ 0#3 ++ 0#3 ++ 1#1 ++ 0#16 : BitVec 24) ++ c6).setWidth 32 := by
      rw [quantizeResponse, packResponse, BitVec.setWidth_eq, BitVec.append_assoc', BitVec.cast_eq]
    _ = 0x01000000#32 ||| c6.setWidth 32 := BitVec.setWidth_append_eq_shiftLeft_setWidth_or

/-- Truncation is the right shift of R48, at the width of a field. -/
theorem setWidth_trunc2 (v : Byte) : (trunc2 v).setWidth 8 = v >>> 6 := by
  rw [trunc2, ← BitVec.toNat_inj, BitVec.toNat_setWidth, BitVec.extractLsb'_toNat, BitVec.toNat_ushiftRight,
    Nat.shiftRight_eq_div_pow]
  have := v.isLt
  omega

theorem quantizeColor_eq_or (c : Color24) :
    quantizeColor c = 0xC0#8 ||| (c.b >>> 6) <<< 4 ||| (c.g >>> 6) <<< 2 ||| c.r >>> 6 := by
  rw [quantizeColor, packColor6, ← BitVec.setWidth_eq (marker ++ trunc2 c.b ++ trunc2 c.g ++ trunc2 c.r),
    BitVec.setWidth_append_append_append_eq_shiftLeft_setWidth_or, setWidth_trunc2, setWidth_trunc2, setWidth_trunc2]
  rfl

theorem toNat_append_eq_add {m n : Nat} (x : BitVec m) (y : BitVec n) :
    (x ++ y).toNat = x.toNat * 2 ^ n + y.toNat := by
  rw [BitVec.toNat_append, ← Nat.shiftLeft_add_eq_or_of_lt y.isLt, Nat.shiftLeft_eq]

theorem expandResponse_toNat (ok : BitVec 1) (c : Color24) : (expandResponse ok c).toNat =
    ok.toNat * 2 ^ 24 + c.r.toNat * 2 ^ 16 + c.g.toNat * 2 ^ 8 + c.b.toNat := by
  simp only [expandResponse, packResponse, rgb24, toNat_append_eq_add, BitVec.toNat_zero]
  ring

/-- Replication multiplies a field by 0x55 (R57). -/
theorem rep2_toNat : ∀ v2 : Field, (rep2 v2).toNat = 0x55 * v2.toNat := by decide

theorem c6Red_toNat (c6 : Byte) : (c6Red c6).toNat = c6.toNat % 4 := by
  rw [c6Red, BitVec.extractLsb'_toNat, Nat.shiftRight_zero]

theorem c6Green_toNat (c6 : Byte) : (c6Green c6).toNat = c6.toNat / 4 % 4 := by
  rw [c6Green, BitVec.extractLsb'_toNat, Nat.shiftRight_eq_div_pow]

theorem c6Blue_toNat (c6 : Byte) : (c6Blue c6).toNat = c6.toNat / 16 % 4 := by
  rw [c6Blue, BitVec.extractLsb'_toNat, Nat.shiftRight_eq_div_pow]

theorem markerOk_toNat (c6 : Byte) : (markerOk c6).toNat = if c6.toNat / 64 = 3 then 1 else 0 := by
  have hmarked : c6Marker c6 = marker ↔ c6.toNat / 64 = 3 := by
    rw [c6Marker_eq_marker_iff]
    have := c6.isLt
    omega
  rw [markerOk, apply_ite BitVec.toNat]
  exact if_congr hmarked rfl rfl

/-! ### The fields of a response word (R40) -/

@[simp] theorem respErr_packResponse (err : BitVec 1) (ecode : BitVec 3) (ok : BitVec 1) (data : BitVec 24) :
    respErr (packResponse err ecode ok data) = err := by
  rw [respErr, packResponse, BitVec.extractLsb'_append_eq_of_le (by decide),
    BitVec.extractLsb'_append_eq_of_le (by decide), BitVec.extractLsb'_append_eq_of_le (by decide)]
  exact BitVec.extractLsb'_append_eq_left

/-! ### The assembler (R44) -/

theorem stripComment_append_comment (line comment : List Char) :
    stripComment (line ++ ';' :: comment) = stripComment line := by
  induction line with
  | nil => rfl
  | cons c cs ih =>
    simp only [stripComment, List.cons_append, List.takeWhile_cons] at ih ⊢
    rw [ih]

end Sys2Proof.Machine

open Sys2Proof Sys2Proof.Machine

/-- Settles O1: the fields of a request word are the operands it was made of. -/
theorem decodeEncode : Obligations.DecodeEncode := fun _ => decode_eq_ok_iff.mpr rfl

/-- Settles O2: a word that decodes is put together again from its fields. -/
theorem encodeDecode : Obligations.EncodeDecode := fun _ _ => decode_eq_ok_iff.mp

/-- Settles O3: each kind of word lies in its own range, and its operands are digits of its number. -/
theorem decodeByRange : Obligations.DecodeByRange := by
  intro w
  rcases decode_range_cases w with ⟨hlow, hhigh, hd⟩ | ⟨hlow, hhigh, hd⟩ | ⟨hlow, hhigh, hd⟩ | ⟨hout, hd⟩
  · rw [hd, if_neg (by omega), if_pos hhigh, reqRed, reqGreen, reqBlue, extractLsb'_eq_ofNat_div,
      extractLsb'_eq_ofNat_div, extractLsb'_eq_ofNat_div, Nat.pow_zero, Nat.div_one]
  · rw [hd, if_neg (by omega), if_neg (by omega), if_pos hhigh, reqC6, extractLsb'_eq_ofNat_div, Nat.pow_zero,
      Nat.div_one]
  · rw [hd, if_neg (by omega), if_neg (by omega), if_neg (by omega), if_pos hhigh]
  · rw [hd]
    rcases Nat.lt_or_ge w.toNat (2 ^ 24) with hlow | hlow
    · rw [if_pos hlow]
    · rw [if_neg (by omega), if_neg (by omega), if_neg (by omega), if_neg (by omega)]

/-- Settles O4: each result belongs to a range of words; ILLEGAL_OP to all words outside one. -/
theorem decodeCounts : Obligations.DecodeCounts := by
  refine ⟨?_, ?_, ?_, ?_⟩
  · rw [card_words_of_iff (2 ^ 24) (2 ^ 25) (by norm_num) fun n => exists_decode_eq_quantize_iff]
    norm_num
  · rw [card_words_of_iff (2 ^ 25) (2 ^ 25 + 2 ^ 8) (by norm_num) fun n => exists_decode_eq_expand_iff]
    norm_num
  · rw [card_words_of_iff (2 ^ 25 + 2 ^ 8) (3 * 2 ^ 24) (by norm_num) fun n => decode_eq_reservedNonzero_iff]
    norm_num
  · rw [card_words_of_not_iff (2 ^ 24) (3 * 2 ^ 24) (by norm_num) fun n => decode_ne_illegalOp_iff]
    norm_num

/-- Settles O5: each word is the request word of its operation, or has no operation. -/
theorem sampleWordsDecode : Obligations.SampleWordsDecode := by
  refine ⟨decode_eq_ok_iff.mpr ?_, decode_eq_ok_iff.mpr ?_, decode_of_illegalOp ?_ ?_,
    decode_eq_reservedNonzero_iff.mpr ?_, decode_of_illegalOp ?_ ?_⟩ <;> decide

/-- Settles O6: the response word and the colour function in the OR form of R41 and R49. -/
theorem quantizeCompletes : Obligations.QuantizeCompletes := by
  intro r g b s
  rw [exec, execQuantize, quantizeResponse_eq_or, quantizeColor_eq_or, State.respond]

/-- Settles O7: the response word is a number with the channels as its base-256 digits. -/
theorem expandCompletes : Obligations.ExpandCompletes := by
  intro c6 s
  have hresp : expandResponse (markerOk c6) (expandColor c6) = BitVec.ofNat 32
      ((if c6.toNat / 64 = 3 then 2 ^ 24 else 0) + 0x55 * (c6.toNat % 4) * 2 ^ 16 +
        0x55 * (c6.toNat / 4 % 4) * 2 ^ 8 + 0x55 * (c6.toNat / 16 % 4)) := by
    rw [← BitVec.setWidth_eq (expandResponse _ _), ← BitVec.ofNat_toNat, expandResponse_toNat]
    simp [markerOk_toNat, expandColor, rep2_toNat, c6Red_toNat, c6Green_toNat, c6Blue_toNat]
  rw [exec, execExpand, hresp, State.respond]

/-- Settles O27, by the three layouts of a response. -/
theorem responseLayout : Obligations.ResponseLayout := by
  intro w
  refine ⟨respReserved_response w, ?_⟩
  change (respErr (response w) = 0#1 → respEcode (response w) = 0#3) ∧ (respErr (response w) = 1#1 → _)
  rcases response_cases w with ⟨c6, h⟩ | ⟨ok, c, h⟩ | ⟨e, h⟩
  · simp [h, quantizeResponse]
  · simp [h, expandResponse]
  · rw [h]
    cases e <;> decide

/-- Settles O50: an operand in its range is kept whole by the byte the encoder takes. -/
theorem assemblerForms : Obligations.AssemblerForms := by
  refine ⟨fun r g b => ?_, fun c6 => ?_, fun w => ?_⟩
  · by_cases h : r ≤ 255 ∧ g ≤ 255 ∧ b ≤ 255
    · obtain ⟨hr, hg, hb⟩ := h
      simp [assemble, SourceLine.wellFormed, hr, hg, hb, encode_quantize_eq_or, setWidth_ofNat_byte]
    · rw [if_neg h, assemble, if_neg (by simpa [SourceLine.wellFormed, and_assoc] using h)]
  · by_cases h : c6 ≤ 255
    · simp [assemble, SourceLine.wellFormed, h, encode_expand_eq_or, setWidth_ofNat_byte]
    · simp [assemble, SourceLine.wellFormed, h]
  · simp [assemble, SourceLine.wellFormed]

/-- Settles O51: the line without its comment is the same. -/
theorem commentIgnored : Obligations.CommentIgnored := by
  intro line comment
  rw [assembleText, stripComment_append_comment, assembleText]
end

section
/-! PROOFS. QUANTIZE: truncation as division, the fields of its result, the number they make, and the operands that
share a result (R48 to R56). -/

namespace Sys2Proof.Machine

/-! ### Truncation of one channel (R48) -/

section channel

variable {v u : Byte}

/-- Truncation is division by 64. -/
theorem trunc2_toNat (v : Byte) : (trunc2 v).toNat = v.toNat / 64 := by
  rw [trunc2, BitVec.extractLsb'_toNat, Nat.shiftRight_eq_div_pow]
  have := v.isLt
  omega

theorem trunc2_eq_iff (f : Field) : trunc2 v = f ↔ v.toNat / 64 = f.toNat := by
  rw [← BitVec.toNat_inj, trunc2_toNat]

/-- Truncation keeps the unsigned order (R54). -/
theorem trunc2_le_trunc2 (h : v ≤ u) : trunc2 v ≤ trunc2 u := by
  rw [BitVec.le_def, trunc2_toNat, trunc2_toNat]
  exact Nat.div_le_div_right h

/-- The four ranges of a channel and their levels (R50). -/
theorem trunc2_levels (v : Byte) :
    (v.toNat ≤ 0x3F → trunc2 v = 0#2) ∧
    (0x40 ≤ v.toNat → v.toNat ≤ 0x7F → trunc2 v = 1#2) ∧
    (0x80 ≤ v.toNat → v.toNat ≤ 0xBF → trunc2 v = 2#2) ∧
    (0xC0 ≤ v.toNat → trunc2 v = 3#2) := by
  have := v.isLt
  simp only [trunc2_eq_iff, BitVec.toNat_ofNat]
  omega

end channel

/-! ### The fields of a result, each of its own channel (R12, R49) -/

section fields

variable (r2 g2 b2 : Field) (c : Color24)

@[simp] theorem c6Red_packColor6 : c6Red (packColor6 r2 g2 b2) = r2 :=
  BitVec.extractLsb'_append_eq_right

@[simp] theorem c6Green_packColor6 : c6Green (packColor6 r2 g2 b2) = g2 := by
  rw [c6Green, packColor6, BitVec.extractLsb'_append_eq_of_le (by decide)]
  exact BitVec.extractLsb'_append_eq_right

@[simp] theorem c6Blue_packColor6 : c6Blue (packColor6 r2 g2 b2) = b2 := by
  rw [c6Blue, packColor6, BitVec.extractLsb'_append_eq_of_le (by decide),
    BitVec.extractLsb'_append_eq_of_le (by decide)]
  exact BitVec.extractLsb'_append_eq_right

@[simp] theorem c6Red_quantizeColor : c6Red (quantizeColor c) = trunc2 c.r := c6Red_packColor6 _ _ _

@[simp] theorem c6Green_quantizeColor : c6Green (quantizeColor c) = trunc2 c.g := c6Green_packColor6 _ _ _

@[simp] theorem c6Blue_quantizeColor : c6Blue (quantizeColor c) = trunc2 c.b := c6Blue_packColor6 _ _ _

/-! ### A result as a number, and which colours give it (R52, R53) -/

/-- A Color6 byte the block produces is the number its fields are the base-4 digits of. -/
theorem packColor6_toNat : (packColor6 r2 g2 b2).toNat = 192 + 16 * b2.toNat + 4 * g2.toNat + r2.toNat := by
  simp only [packColor6, marker, toNat_append_eq_add, BitVec.toNat_ofNat]
  omega

theorem quantizeColor_toNat :
    (quantizeColor c).toNat = 192 + 16 * (c.b.toNat / 64) + 4 * (c.g.toNat / 64) + c.r.toNat / 64 := by
  simp only [quantizeColor, packColor6_toNat, trunc2_toNat]

/-- The colours with a given marked result are those whose channels lie in the ranges its fields name (R53). -/
theorem quantizeColor_eq_iff {c6 : Byte} (hmarked : 0xC0 ≤ c6.toNat) : quantizeColor c = c6 ↔
    c.r.toNat / 64 = c6.toNat % 4 ∧ c.g.toNat / 64 = c6.toNat / 4 % 4 ∧ c.b.toNat / 64 = c6.toNat / 16 % 4 := by
  rw [← BitVec.toNat_inj, quantizeColor_toNat]
  have := c6.isLt
  have := c.r.isLt
  have := c.g.isLt
  have := c.b.isLt
  omega

end fields

/-- The channel values at level `k`, those that truncate to `k`. -/
def channelsAtLevel (k : Nat) : Finset (Fin 256) := Finset.univ.filter fun v => v.val / 64 = k

theorem mem_channelsAtLevel {k : Nat} {v : Fin 256} : v ∈ channelsAtLevel k ↔ v.val / 64 = k := by
  simp [channelsAtLevel]

/-- Each of the four levels is an interval of 64 values. -/
theorem card_channelsAtLevel {k : Nat} (hk : k < 4) : (channelsAtLevel k).card = 64 := by
  have hinterval : channelsAtLevel k = Finset.Icc ⟨64 * k, by omega⟩ ⟨64 * k + 63, by omega⟩ := by
    ext v
    simp only [mem_channelsAtLevel, Finset.mem_Icc, Fin.le_def]
    omega
  rw [hinterval, Fin.card_Icc]
  simp only
  omega

/-! ### The response word of QUANTIZE (R41, R49) -/

theorem trunc2_extractLsb' (w : Word) (start : Nat) : trunc2 (w.extractLsb' start 8) = w.extractLsb' (start + 6) 2 := by
  ext i hi
  simp [trunc2, BitVec.getElem_extractLsb', Nat.add_assoc, show 6 + i < 8 by omega]

theorem quantizeResponse_packColor6 (r2 g2 b2 : Field) :
    quantizeResponse (packColor6 r2 g2 b2) = 0b00000001#8 ++ 0#16 ++ 0b11#2 ++ b2 ++ g2 ++ r2 := by
  rw [← BitVec.toNat_inj]
  simp only [quantizeResponse, packResponse, toNat_append_eq_add, packColor6_toNat, BitVec.toNat_ofNat]
  omega

/-- The Color6 byte of a QUANTIZE response is its low byte (R41). -/
@[simp] theorem extractLsb'_quantizeResponse (c6 : Byte) : (quantizeResponse c6).extractLsb' 0 8 = c6 := by
  rw [quantizeResponse, packResponse, BitVec.extractLsb'_append_eq_of_add_le (by decide)]
  exact BitVec.extractLsb'_append_eq_right

/-- The response to a QUANTIZE request, on the request word (R49). -/
theorem response_of_opQuantize {w : Word} (hop : reqOp w = opQuantize) : response w =
    0b00000001#8 ++ 0#16 ++ 0b11#2 ++ w.extractLsb' 6 2 ++ w.extractLsb' 14 2 ++ w.extractLsb' 22 2 := by
  rw [response, decode_of_opQuantize hop]
  simp only [quantizeColor, quantizeResponse_packColor6, reqRed, reqGreen, reqBlue, trunc2_extractLsb']

/-! ### Grey operands (R56) -/

/-- One field in all three lanes is the field times 0x15, under the marker. -/
theorem packColor6_same (f : Field) : packColor6 f f f = 0xC0#8 ||| 0x15#8 * f.setWidth 8 := by
  revert f
  decide

theorem packColor6_same_mem (f : Field) : packColor6 f f f ∈ [0xC0#8, 0xD5#8, 0xEA#8, 0xFF#8] := by
  revert f
  decide

end Sys2Proof.Machine

open Sys2Proof Sys2Proof.Machine

/-- Settles O9: the step is the COMPLETE of a word whose OP selects QUANTIZE. -/
theorem quantizeRequest : Obligations.QuantizeRequest := by
  intro s w hblock hpending hop
  rw [step_complete hblock hpending, response_of_opQuantize hop, State.respond]

/-- Settles O12: each field of the result is its channel truncated, and truncation has the four levels. -/
theorem quantizeLevels : Obligations.QuantizeLevels := by
  intro c v f hmem
  have hf : f = trunc2 v := by
    simp only [c6Red_quantizeColor, c6Green_quantizeColor, c6Blue_quantizeColor, List.mem_cons, Prod.mk.injEq,
      List.not_mem_nil, or_false] at hmem
    rcases hmem with ⟨rfl, hf⟩ | ⟨rfl, hf⟩ | ⟨rfl, hf⟩ <;> exact hf
  rw [hf]
  exact trunc2_levels v

/-- Settles O13: each field of the result is its own channel truncated, and the marker is fixed. -/
theorem quantizeLanes : Obligations.QuantizeLanes := by
  intro c d
  change (_ → c6Red _ = c6Red _) ∧ (_ → c6Green _ = c6Green _) ∧ (_ → c6Blue _ = c6Blue _) ∧
    c6Marker _ = c6Marker _
  simp only [c6Red_quantizeColor, c6Green_quantizeColor, c6Blue_quantizeColor, c6Marker_quantizeColor, and_true]
  exact ⟨congrArg trunc2, congrArg trunc2, congrArg trunc2⟩

/-- Settles O14: the sum is the value of the result's base-4 digits; a channel below 256 has a level below 4. -/
theorem quantizeSum : Obligations.QuantizeSum := by
  intro c
  have hsum := quantizeColor_toNat c
  have := (quantizeColor c).isLt
  exact ⟨hsum, by omega, by omega⟩

/-- Settles O15: the operands with one result are a box of three levels, each of 64 channel values. -/
theorem quantizeFibres : Obligations.QuantizeFibres := by
  intro c6 hmarked
  refine ⟨fun c => quantizeColor_eq_iff c hmarked, ?_⟩
  have hbox : ((Finset.univ : Finset (Fin 256 × Fin 256 × Fin 256)).filter fun p =>
      quantizeColor { r := BitVec.ofFin p.1, g := BitVec.ofFin p.2.1, b := BitVec.ofFin p.2.2 } = c6) =
      channelsAtLevel (c6.toNat % 4) ×ˢ channelsAtLevel (c6.toNat / 4 % 4) ×ˢ channelsAtLevel (c6.toNat / 16 % 4) := by
    ext p
    simp only [Finset.mem_filter, Finset.mem_univ, true_and, Finset.mem_product, mem_channelsAtLevel,
      quantizeColor_eq_iff _ hmarked, BitVec.toNat_ofFin]
  rw [hbox, Finset.card_product, Finset.card_product, card_channelsAtLevel (by omega), card_channelsAtLevel (by omega),
    card_channelsAtLevel (by omega)]
  norm_num

/-- Settles O16: each field of the result is its channel truncated, and truncation is monotone. -/
theorem quantizeMonotone : Obligations.QuantizeMonotone := by
  intro c d
  simp only [c6Red_quantizeColor, c6Green_quantizeColor, c6Blue_quantizeColor]
  exact ⟨trunc2_le_trunc2, trunc2_le_trunc2, trunc2_le_trunc2⟩

/-- Settles O17: the colours whose levels are the fields of 0xF3, which are 3, 0 and 3. -/
theorem quantizeSentinel : Obligations.QuantizeSentinel := by
  have hbox (c : Color24) : quantizeColor c = 0xF3#8 ↔
      0xC0 ≤ c.r.toNat ∧ c.g.toNat ≤ 0x3F ∧ 0xC0 ≤ c.b.toNat := by
    rw [quantizeColor_eq_iff c (by decide), BitVec.toNat_ofNat]
    have := c.r.isLt
    have := c.b.isLt
    omega
  exact ⟨hbox, (hbox _).mpr (by decide)⟩

/-- Settles O18: the Color6 byte has one field, the grey's level, in all three lanes. -/
theorem quantizeGreys : Obligations.QuantizeGreys := by
  intro v s
  refine ⟨_, rfl, ?_⟩
  rw [State.respond_resp, extractLsb'_quantizeResponse, quantizeColor, ← setWidth_trunc2]
  exact ⟨packColor6_same _, packColor6_same_mem _⟩
end

section
/-! PROOFS. EXPAND: what its colour reads of the operand, the levels of its channels, what QUANTIZE makes of its result
and the other way round, and its response word (R57 to R64). -/

namespace Sys2Proof.Machine

/-! ### Replication of one field (R57) -/

section channel

variable {v : Byte}

/-- Replication gives the four levels only (R60). -/
theorem rep2_mem_levels : ∀ v2 : Field, rep2 v2 ∈ [0x00#8, 0x55#8, 0xAA#8, 0xFF#8] := by decide

theorem rep2_eq_replicate : ∀ v2 : Field, rep2 v2 = BitVec.replicate 4 v2 := by decide

/-- Replication loses nothing: truncation undoes it (R61). -/
theorem rep2_inj {v2 u2 : Field} : rep2 v2 = rep2 u2 ↔ v2 = u2 :=
  (Function.LeftInverse.injective trunc2_rep2).eq_iff

/-- A channel survives truncation and replication exactly when it is one of the four levels (R63). -/
theorem rep2_trunc2_eq_self_iff : rep2 (trunc2 v) = v ↔ v ∈ [0x00#8, 0x55#8, 0xAA#8, 0xFF#8] := by
  constructor
  · intro h
    exact h ▸ rep2_mem_levels (trunc2 v)
  · intro h
    simp only [List.mem_cons, List.not_mem_nil, or_false] at h
    rcases h with rfl | rfl | rfl | rfl <;> rfl

/-- With `k` the level of a channel, replication gives `85·k` for a value from `64·k` to `64·k + 63` (R63). -/
theorem rep2_trunc2_error (v : Byte) :
    21 * ((v.toNat / 64 : Nat) : Int) - 63 ≤ ((rep2 (trunc2 v)).toNat : Int) - (v.toNat : Int) ∧
    ((rep2 (trunc2 v)).toNat : Int) - (v.toNat : Int) ≤ 21 * ((v.toNat / 64 : Nat) : Int) ∧
    (((rep2 (trunc2 v)).toNat : Int) - (v.toNat : Int)).natAbs ≤ 63 := by
  have := v.isLt
  rw [rep2_toNat, trunc2_toNat]
  omega

end channel

/-! ### What the colour reads of the operand (R58, R59) -/

section colour

variable {c6 d6 : Byte}

theorem expandColor_mem_levels {v : Byte} (h : v ∈ [(expandColor c6).r, (expandColor c6).g, (expandColor c6).b]) :
    v ∈ [0x00#8, 0x55#8, 0xAA#8, 0xFF#8] := by
  simp only [expandColor, List.mem_cons, List.not_mem_nil, or_false] at h
  rcases h with rfl | rfl | rfl <;> exact rep2_mem_levels _

/-- The colour is given by the three fields, and gives them back. -/
theorem expandColor_eq_iff_fields : expandColor c6 = expandColor d6 ↔
    c6Red c6 = c6Red d6 ∧ c6Green c6 = c6Green d6 ∧ c6Blue c6 = c6Blue d6 := by
  rw [expandColor, expandColor, Color24.mk.injEq, rep2_inj, rep2_inj, rep2_inj]

/-- The three fields are the low base-4 digits of the operand. -/
theorem expandColor_eq_iff_mod : expandColor c6 = expandColor d6 ↔ c6.toNat % 64 = d6.toNat % 64 := by
  simp only [expandColor_eq_iff_fields, ← BitVec.toNat_inj, c6Red_toNat, c6Green_toNat, c6Blue_toNat]
  omega

/-- The colour tells bits [5:0] of the operand and no others (R59). -/
theorem expandColor_eq_iff : expandColor c6 = expandColor d6 ↔ c6.extractLsb' 0 6 = d6.extractLsb' 0 6 := by
  rw [expandColor_eq_iff_mod, ← BitVec.toNat_inj, BitVec.extractLsb'_toNat, BitVec.extractLsb'_toNat,
    Nat.shiftRight_zero, Nat.shiftRight_zero]

theorem markerOk_eq_one_iff : markerOk c6 = 1#1 ↔ c6Marker c6 = marker := by
  simp [markerOk]

/-- A change of the marker alone leaves the colour as it is (R60). -/
theorem expandColor_xor {m : Byte} (hm : m.extractLsb' 0 6 = 0#6) : expandColor (c6 ^^^ m) = expandColor c6 := by
  rw [expandColor_eq_iff, BitVec.extractLsb'_xor, hm, BitVec.xor_zero]

end colour

/-! ### How many results there are, and which operands share one (R60) -/

theorem rgb24_injective : Function.Injective rgb24 := by
  rintro ⟨r, g, b⟩ ⟨r', g', b'⟩ h
  simp only [rgb24, ← BitVec.toNat_inj, toNat_append_eq_add] at h
  simp only [Color24.mk.injEq, ← BitVec.toNat_inj]
  have := g.isLt
  have := b.isLt
  have := g'.isLt
  have := b'.isLt
  omega

/-- The DATA of the operand with number `n`. -/
def expandData (n : Fin 256) : BitVec 24 := rgb24 (expandColor (BitVec.ofFin n))

theorem expandData_eq_iff {n m : Fin 256} : expandData n = expandData m ↔ n.val % 64 = m.val % 64 := by
  rw [expandData, expandData, rgb24_injective.eq_iff, expandColor_eq_iff_mod, BitVec.toNat_ofFin, BitVec.toNat_ofFin]

/-- Every operand has the result of its number modulo 64. -/
theorem image_expandData : Finset.univ.image expandData = (Finset.Iio 64).image expandData := by
  ext data
  simp only [Finset.mem_image, Finset.mem_univ, true_and, Finset.mem_Iio, Fin.lt_def]
  constructor
  · rintro ⟨n, rfl⟩
    have hlt : n.val % 64 < 64 := Nat.mod_lt _ (by decide)
    exact ⟨⟨n.val % 64, by omega⟩, hlt, expandData_eq_iff.mpr (Nat.mod_mod _ _)⟩
  · rintro ⟨n, -, rfl⟩
    exact ⟨n, rfl⟩

theorem card_image_expandData : (Finset.univ.image expandData).card = 64 := by
  rw [image_expandData, Finset.card_image_of_injOn, Fin.card_Iio]
  · rfl
  · intro n hn m hm h
    rw [Finset.mem_coe, Finset.mem_Iio] at hn hm
    have hn : n.val < 64 := hn
    have hm : m.val < 64 := hm
    rw [expandData_eq_iff] at h
    omega

/-- Of the four markers reached from `f` by changing its bits, one is `0b11`. -/
theorem countP_xor_eq_marker : ∀ f : Field,
    [f, f ^^^ 1#2, f ^^^ 2#2, f ^^^ 3#2].countP (fun m => m = marker) = 1 := by decide

theorem length_filter_markerOk_eq_countP (l : List Byte) :
    (l.filter fun c6 => markerOk c6 = 1#1).length = (l.map c6Marker).countP fun m => m = marker := by
  rw [← List.countP_eq_length_filter, List.countP_map]
  simp only [markerOk_eq_one_iff, Function.comp_def]

/-! ### QUANTIZE and EXPAND, one after the other (R61, R62, R63) -/

/-- QUANTIZE of an expanded colour is the operand with its marker set (R61). -/
theorem quantizeColor_expandColor_eq_or (c6 : Byte) : quantizeColor (expandColor c6) = c6 ||| 0xC0#8 := by
  have hcolor : expandColor (c6 ||| 0xC0#8) = expandColor c6 := by
    rw [expandColor_eq_iff, BitVec.extractLsb'_or]
    exact BitVec.or_zero
  have hmarked : c6Marker (c6 ||| 0xC0#8) = marker := by
    rw [c6Marker, BitVec.extractLsb'_or]
    exact BitVec.or_allOnes
  rw [← hcolor, quantizeColor_expandColor hmarked]

theorem expandColor_quantizeColor (c : Color24) : expandColor (quantizeColor c) =
    { r := rep2 (trunc2 c.r), g := rep2 (trunc2 c.g), b := rep2 (trunc2 c.b) } := by
  simp only [expandColor, c6Red_quantizeColor, c6Green_quantizeColor, c6Blue_quantizeColor]

theorem expandColor_quantizeColor_eq_self_iff {c : Color24} : expandColor (quantizeColor c) = c ↔
    ∀ v ∈ [c.r, c.g, c.b], v ∈ [0x00#8, 0x55#8, 0xAA#8, 0xFF#8] := by
  obtain ⟨r, g, b⟩ := c
  simp only [expandColor_quantizeColor, Color24.mk.injEq, rep2_trunc2_eq_self_iff, List.forall_mem_cons,
    List.not_mem_nil, false_implies, implies_true, and_true]

/-! ### The response word of EXPAND (R42, R58) -/

section layout

variable (ok : BitVec 1) (c : Color24)

theorem expandResponse_eq_append : expandResponse ok c = 0b0000000#7 ++ ok ++ c.r ++ c.g ++ c.b := by
  rw [expandResponse, packResponse, rgb24, BitVec.append_assoc', BitVec.append_assoc']
  rfl

@[simp] theorem respData_packResponse (err : BitVec 1) (ecode : BitVec 3) (data : BitVec 24) :
    respData (packResponse err ecode ok data) = data :=
  BitVec.extractLsb'_append_eq_right

@[simp] theorem respMarkerOk_packResponse (err : BitVec 1) (ecode : BitVec 3) (data : BitVec 24) :
    respMarkerOk (packResponse err ecode ok data) = ok := by
  rw [respMarkerOk, packResponse, BitVec.extractLsb'_append_eq_of_le (by decide)]
  exact BitVec.extractLsb'_append_eq_right

@[simp] theorem extractLsb'_red_expandResponse : (expandResponse ok c).extractLsb' 16 8 = c.r := by
  rw [expandResponse_eq_append, BitVec.extractLsb'_append_eq_of_le (by decide),
    BitVec.extractLsb'_append_eq_of_le (by decide)]
  exact BitVec.extractLsb'_append_eq_right

@[simp] theorem extractLsb'_green_expandResponse : (expandResponse ok c).extractLsb' 8 8 = c.g := by
  rw [expandResponse_eq_append, BitVec.extractLsb'_append_eq_of_le (by decide)]
  exact BitVec.extractLsb'_append_eq_right

@[simp] theorem extractLsb'_blue_expandResponse : (expandResponse ok c).extractLsb' 0 8 = c.b := by
  rw [expandResponse_eq_append]
  exact BitVec.extractLsb'_append_eq_right

end layout

/-- A word whose OP selects EXPAND and whose reserved bits are 0 is the request word of its low byte (R35). -/
theorem decode_of_expandHeader {w : Word} (h : w.extractLsb' 8 24 = 0x020000#24) :
    decode w = .ok (.expand (reqC6 w)) := by
  refine decode_eq_ok_iff.mpr ?_
  calc
    encode (.expand (reqC6 w)) = w.extractLsb' 8 24 ++ w.extractLsb' 0 8 := by rw [h]; rfl
    _ = w := BitVec.extractLsb'_append_extractLsb'

/-- The response to an EXPAND request, on the request word (R58). -/
theorem response_of_expandHeader {w : Word} (h : w.extractLsb' 8 24 = 0x020000#24) : response w =
    0b0000000#7 ++ (if w.extractLsb' 6 2 = 0b11#2 then 1#1 else 0#1) ++ BitVec.replicate 4 (w.extractLsb' 0 2) ++
      BitVec.replicate 4 (w.extractLsb' 2 2) ++ BitVec.replicate 4 (w.extractLsb' 4 2) := by
  rw [response, decode_of_expandHeader h]
  simp [expandResponse_eq_append, expandColor, markerOk, marker, rep2_eq_replicate, c6Red, c6Green, c6Blue, c6Marker,
    reqC6, BitVec.extractLsb'_extractLsb'_of_le]

end Sys2Proof.Machine

open Sys2Proof Sys2Proof.Machine

/-- Settles O10: the step is the COMPLETE of a word that decodes to EXPAND of its low byte. -/
theorem expandRequest : Obligations.ExpandRequest := by
  intro s w hblock hpending hheader
  rw [step_complete hblock hpending, response_of_expandHeader hheader, State.respond]

/-- Settles O19: the colour tells bits [5:0] of the operand only, and MARKER_OK its marker. -/
theorem expandMarker : Obligations.ExpandMarker := by
  intro c6 d6 s h
  have hcolor : expandColor c6 = expandColor d6 := expandColor_eq_iff.mpr h
  refine ⟨_, _, rfl, rfl, ?_⟩
  simp only [State.respond_resp, expandResponse, respData_packResponse, respMarkerOk_packResponse,
    respErr_packResponse, respEcode_packResponse, hcolor, true_and, and_true]
  exact markerOk_eq_one_iff

/-- Settles O20: the operands below 64 give every DATA result once, and one of the four markers is `0b11`. -/
theorem expandRange : Obligations.ExpandRange := by
  refine ⟨fun c6 v => expandColor_mem_levels, card_image_expandData, ?_, ?_⟩
  · intro c6 d6 hmem
    simp only [List.mem_cons, List.not_mem_nil, or_false] at hmem
    rcases hmem with rfl | rfl | rfl | rfl
    · rfl
    all_goals exact expandColor_xor rfl
  · intro c6
    rw [length_filter_markerOk_eq_countP]
    simp only [List.map_cons, List.map_nil, c6Marker, BitVec.extractLsb'_xor]
    exact countP_xor_eq_marker _

/-- Settles O21: the operand with its marker set is itself where it is marked, and the channels of the DATA are the
colour. -/
theorem quantizeInvertsExpand : Obligations.QuantizeInvertsExpand := by
  refine ⟨trunc2_rep2, fun c6 => ⟨quantizeColor_expandColor_eq_or c6, ?_, ?_⟩⟩
  · intro hmarked
    exact quantizeColor_expandColor ((c6Marker_eq_marker_iff c6).mpr hmarked)
  · intro s t hexec
    cases hexec
    rw [State.respond_resp, extractLsb'_red_expandResponse, extractLsb'_green_expandResponse,
      extractLsb'_blue_expandResponse, exec, execQuantize, quantizeColor_expandColor_eq_or, quantizeResponse_eq_or,
      State.respond]

/-- Settles O22: a result of QUANTIZE is marked, so QUANTIZE inverts EXPAND on it. -/
theorem requantizeIdempotent : Obligations.RequantizeIdempotent :=
  fun c => ⟨quantizeColor_expandColor (c6Marker_quantizeColor c), fun _ => expandColor_mem_levels⟩

/-- Settles O23: each channel is truncated and replicated by itself. -/
theorem expandQuantizeError : Obligations.ExpandQuantizeError := by
  intro c
  refine ⟨expandColor_quantizeColor_eq_self_iff, fun v u hmem => ?_⟩
  have hu : u = rep2 (trunc2 v) := by
    simp only [expandColor_quantizeColor, List.mem_cons, Prod.mk.injEq, List.not_mem_nil, or_false] at hmem
    rcases hmem with ⟨rfl, hu⟩ | ⟨rfl, hu⟩ | ⟨rfl, hu⟩ <;> exact hu
  rw [hu]
  exact rep2_trunc2_error v

/-- Settles O24: a channel is its own field replicated, and MARKER_OK compares the marker field alone. -/
theorem expandLanes : Obligations.ExpandLanes := by
  intro c6 d6
  refine ⟨congrArg rep2, congrArg rep2, congrArg rep2, fun h => ?_⟩
  change c6Marker c6 = c6Marker d6 at h
  rw [markerOk, markerOk, h]
end

section
/-! PROOFS. Errors and what they leave alone: the response of a word that decodes and of one that raises an error, the
only stop of the machine, acceptance after an error, and the blocks of a system (R65 to R75). -/

namespace Sys2Proof.Machine

/-! ### The response of a word, by what it decodes to -/

section word

variable {w : Word}

/-- Executing the operation a word decodes to is the COMPLETE of that word. -/
theorem exec_eq_respond {i : Instr} (h : decode w = .ok i) (s : State) :
    exec i s = .next (s.respond (response w)) := by
  rw [← complete_eq_respond, complete, h]

theorem response_of_decode_error {e : DecodeError} (h : decode w = .error e) : response w = errorResponse e := by
  rw [response, h]

theorem respErr_response_of_decode_ok {i : Instr} (h : decode w = .ok i) : respErr (response w) = 0#1 := by
  rw [response, h]
  cases i with
  | quantize r g b => exact respErr_packResponse ..
  | expand c6 => exact respErr_packResponse ..

/-- The layout of R40 lets no response carry a code without ERR. -/
theorem respEcode_response_of_decode_ok {i : Instr} (h : decode w = .ok i) : respEcode (response w) = 0#3 :=
  (responseLayout w).2.1 (respErr_response_of_decode_ok h)

theorem transactionFault_response_of_decode_ok {i : Instr} (h : decode w = .ok i) :
    transactionFault (response w) = none := by
  simp [transactionFault, respErr_response_of_decode_ok h]

/-- The two codes of R66 are told apart, so a code names its error. -/
@[simp] theorem errorOfCode_ecodeOf (e : DecodeError) : errorOfCode (ecodeOf e) = some e := by
  cases e <;> rfl

@[simp] theorem transactionFault_errorResponse (e : DecodeError) : transactionFault (errorResponse e) = some e := by
  simp [transactionFault, errorResponse]

/-- COMPLETE of a word that raises an error is the error's entry (R70). -/
theorem step_raises {s : State} {e : DecodeError} (hb : s.blockMoves = true) (hp : s.pending = some w)
    (hd : decode w = .error e) : step s = .next (s.useBlockTurn.raiseError e) := by
  rw [step_complete hb hp, response_of_decode_error hd, State.raiseError]

end word

/-! ### The machine's only stop -/

section stop

variable {s : State}

/-- Every step answers but a read of `RESP`, which looks at the latch first (R74, R84). -/
theorem step_answers_or_readResp (s : State) :
    (∃ t, step s = .next t) ∨ ∃ rest, s.turns = .readResp :: rest := by
  rcases turn_cases s with hb | ⟨w, rest, ht, hp⟩ | ⟨rest, ht⟩ | ⟨rest, ht⟩ | ⟨rest, ht⟩
  · cases hp : s.pending with
    | none => exact .inl ⟨_, (step_of_blockMoves hb).trans (moveBlock_none (by simpa using hp))⟩
    | some w => exact .inl ⟨_, step_complete hb hp⟩
  · exact .inl ⟨_, step_present_none ht hp⟩
  · exact .inl ⟨_, step_readValid ht⟩
  · exact .inr ⟨rest, ht⟩
  · exact .inl ⟨_, step_reset ht⟩

/-- Under the invariant a step answers, or it is the early read of R84. -/
theorem State.Inv.step_answers_or_earlyRead (hinv : s.Inv) :
    (∃ t, step s = .next t) ∨ (s.respValid = false ∧ ∃ rest, s.turns = .readResp :: rest) := by
  rcases step_answers_or_readResp s with hnext | ⟨rest, ht⟩
  · exact .inl hnext
  · cases hv : s.respValid with
    | false => exact .inr ⟨rfl, rest, ht⟩
    | true => exact .inl ⟨_, hinv.step_readResp_valid ht hv⟩

end stop

/-! ### Acceptance after an error -/

/-- ACCEPT overwrites every field an error has written (R70, R77). -/
theorem State.accept_raiseError (s : State) (e : DecodeError) (q : Word) : (s.raiseError e).accept q = s.accept q :=
  rfl

/-- A transaction does not see the error before it. -/
theorem State.transact_raiseError (s : State) (e : DecodeError) (q : Word) :
    (s.raiseError e).transact q = s.transact q := by
  rw [State.transact, State.accept_raiseError, State.transact]

/-- Two steps carry a presented request through when the block has the turn after it. -/
theorem run_present_block {s : State} {q : Word} {rest : List Turn} (ht : s.turns = .present q :: .block :: rest)
    (hp : s.pending = none) : core.run 2 s = .next (State.transact { s with turns := .block :: rest } q) :=
  run_transact ht hp rfl 0

/-! ### The blocks of a system (R75) -/

section system

variable {j k : Nat} {system right : List State} {s t : State}

theorem stepInstance_of_next (hs : system[j]? = some s) (hstep : step s = .next t) :
    stepInstance j system = .next (system.set j t) := by
  simp only [stepInstance, hs, hstep]

theorem stepInstance_of_none (hs : system[j]? = none) : stepInstance j system = .next system := by
  simp only [stepInstance, hs]

/-- What a step of a system that answers has done: nothing, where no block stands in place `k`, or that block's
own step in its place. -/
theorem stepInstance_cases (h : stepInstance k system = .next right) :
    (system[k]? = none ∧ right = system) ∨
    ∃ s t, system[k]? = some s ∧ step s = .next t ∧ right = system.set k t := by
  cases hs : system[k]? with
  | none =>
    rw [stepInstance_of_none hs] at h
    cases h
    exact .inl ⟨rfl, rfl⟩
  | some s =>
    simp only [stepInstance, hs] at h
    split at h
    next t hstep => cases h; exact .inr ⟨s, t, rfl, hstep, rfl⟩
    next => cases h
    next => cases h

/-- A step of block `k` leaves every other block as it was. -/
theorem getElem?_of_stepInstance_ne (hne : j ≠ k) (h : stepInstance k system = .next right) :
    right[j]? = system[j]? := by
  rcases stepInstance_cases h with ⟨-, rfl⟩ | ⟨s, t, -, -, rfl⟩
  · rfl
  · exact List.getElem?_set_ne hne.symm

/-- A step of block `k` reads no other block: it does the same whatever stands in place `j`. -/
theorem stepInstance_set_of_ne (hne : j ≠ k) (h : stepInstance k system = .next right) :
    stepInstance k (system.set j s) = .next (right.set j s) := by
  rcases stepInstance_cases h with ⟨hk, rfl⟩ | ⟨u, t, hk, hstep, rfl⟩
  · exact stepInstance_of_none ((List.getElem?_set_ne hne).trans hk)
  · rw [stepInstance_of_next ((List.getElem?_set_ne hne).trans hk) hstep, List.set_comm _ _ hne]

end system

end Sys2Proof.Machine

open Sys2Proof Sys2Proof.Machine

/-- Settles O8: every operation is what its own request word decodes to, and such a word's response has no error. -/
theorem operandsRaiseNoError : Obligations.OperandsRaiseNoError := by
  intro i s
  have hd := decodeEncode i
  exact ⟨_, exec_eq_respond hd s, rfl, respErr_response_of_decode_ok hd, respEcode_response_of_decode_ok hd,
    transactionFault_response_of_decode_ok hd⟩

/-- Settles O25: such an OP is that of neither operation, and the step is the error's entry. -/
theorem illegalOpAnswer : Obligations.IllegalOpAnswer := by
  intro s w hblock hpending hop
  change reqOp w = 0x00#8 ∨ 0x03 ≤ (reqOp w).toNat at hop
  have hd : decode w = .error .illegalOp := by
    refine decode_of_illegalOp (fun h => ?_) (fun h => ?_) <;> simp [h, opQuantize, opExpand] at hop
  exact ⟨hd, step_raises hblock hpending hd⟩

/-- Settles O26: the OP selects EXPAND, the reserved bits refuse it, and the step is the error's entry. -/
theorem reservedNonzeroAnswer : Obligations.ReservedNonzeroAnswer := by
  intro s w hblock hpending hop hrsv
  have hd : decode w = .error .reservedNonzero := (decode_of_opExpand hop).trans (if_neg hrsv)
  exact ⟨hd, step_raises hblock hpending hd⟩

/-- Settles O28: ERR and ECODE of the response name what decoding raised. -/
theorem transactionFaultReported : Obligations.TransactionFaultReported := by
  refine fun w => ⟨fun i => transactionFault_response_of_decode_ok, fun e hd => ?_⟩
  rw [response_of_decode_error hd, transactionFault_errorResponse]

/-- Settles O40: a step that answers is no stop and no early read, and what does not answer is the early read. -/
theorem stopsOnlyOnEarlyRead : Obligations.StopsOnlyOnEarlyRead := by
  intro s hinv
  rcases hinv.step_answers_or_earlyRead with ⟨t, hstep⟩ | ⟨hv, rest, ht⟩
  · have hread : ¬ (s.respValid = false ∧ ∃ rest, s.turns = .readResp :: rest) := by
      rintro ⟨hv, rest, ht⟩
      cases hstep.symm.trans (earlyReadFaults s rest ht hv)
    simp [hstep, hread]
  · simp [earlyReadFaults s rest ht hv, hv, ht]

/-- Settles O45: both runs are the transaction of the same request, which does not see the error. -/
theorem errorsDoNotStick : Obligations.ErrorsDoNotStick := by
  intro s e q rest ht hp
  have hrun : core.run 2 (s.raiseError e) = .next (State.transact { s with turns := .block :: rest } q) :=
    (run_present_block (s := s.raiseError e) ht rfl).trans
      (congrArg _ (State.transact_raiseError { s with turns := .block :: rest } e q))
  exact ⟨hrun.trans (run_present_block ht hp).symm, _, hrun, rfl, rfl, rfl⟩

/-- Settles O49: a step of one block reads and writes its own place of the list alone. -/
theorem instancesIndependent : Obligations.InstancesIndependent := by
  constructor
  · intro j system s t hs hstep
    have hj := stepInstance_of_next hs hstep
    obtain ⟨hlt, -⟩ := List.getElem?_eq_some_iff.mp hs
    exact ⟨_, hj, List.length_set, List.getElem?_set_self hlt, fun k hne => getElem?_of_stepInstance_ne hne hj⟩
  · intro j k system left right hne hleft hright
    have hframe : right[j]? = system[j]? := getElem?_of_stepInstance_ne hne hright
    rcases stepInstance_cases hleft with ⟨hj, rfl⟩ | ⟨s, t, hj, hstep, rfl⟩
    · exact ⟨right, hright, stepInstance_of_none (hframe.trans hj)⟩
    · exact ⟨right.set j t, stepInstance_set_of_ne hne hright, stepInstance_of_next (hframe.trans hj) hstep⟩
end

section
/-! PROOFS. The transaction steps and what reset does to a run: ACCEPT, COMPLETE, RESET and waiting as step equations,
what becomes of a request in progress, and a run that abandons one (R77 to R80, R85 to R87). -/

namespace Sys2Proof.Machine

variable {s t : State} {rest : List Turn}

/-! ### A presented request that waits (R77) -/

theorem State.blockMoves_of_waiting {w q : Word} (ht : s.turns = .present w :: rest) (hp : s.pending = some q) :
    s.blockMoves = true := by
  simp [State.blockMoves, ht, hp]

/-- A waiting presentation is not used up when the block moves. -/
theorem State.useBlockTurn_of_present {w : Word} (ht : s.turns = .present w :: rest) : s.useBlockTurn = s := by
  simp [State.useBlockTurn, ht]

/-! ### What holds along a run, and what is collected from its parts -/

/-- What every step that answers keeps holds wherever a run leads. -/
theorem run_keeps {P : State → Prop} (hstep : ∀ s t, P s → step s = .next t → P t) {n : Nat} (hs : P s)
    (hrun : core.run n s = .next t) : P t := by
  induction n generalizing s with
  | zero =>
    cases hrun
    exact hs
  | succ n ih =>
    obtain ⟨u, hu, hrest⟩ := run_succ_next hrun
    exact ih (hstep s u hs hu) hrest

/-- What is collected from `m + k` steps is what the first `m` give, and then what the next `k` give. -/
theorem collect_add {pick : State → State → List Word} {m : Nat} (k : Nat) (hrun : core.run m s = .next t) :
    collect pick (m + k) s = collect pick m s ++ collect pick k t := by
  induction m generalizing s with
  | zero =>
    cases hrun
    rw [Nat.zero_add, collect, List.nil_append]
  | succ m ih =>
    obtain ⟨u, hu, hrest⟩ := run_succ_next hrun
    rw [Nat.add_right_comm, collect_of_next hu, collect_of_next hu, ih hrest, List.append_assoc]

/-! ### A settled block: no request in progress and none to be presented -/

theorem State.settled_iff : s.settled = true ↔ s.pending = none ∧ s.turns.any Turn.isPresent = false := by
  simp [State.settled]

theorem State.pending_eq_none_of_settled (hs : s.settled = true) : s.pending = none := by
  obtain ⟨hp, -⟩ := State.settled_iff.mp hs
  exact hp

/-- Where nothing is to be presented, nothing is after the next turn either. -/
theorem any_isPresent_of_turns {turn : Turn} (ht : s.turns = turn :: rest)
    (hnone : s.turns.any Turn.isPresent = false) : rest.any Turn.isPresent = false := by
  rw [ht, List.any_cons, Bool.or_eq_false_iff] at hnone
  obtain ⟨-, hrest⟩ := hnone
  exact hrest

/-- Using up the block's turn leaves the presentations still to come. -/
theorem State.any_isPresent_useBlockTurn :
    s.useBlockTurn.turns.any Turn.isPresent = s.turns.any Turn.isPresent := by
  rw [State.useBlockTurn_turns]
  split
  next ht => simp [ht, Turn.isPresent]
  next => rfl

/-- Only ACCEPT fills `PENDING`, and a settled block is presented nothing to accept. -/
theorem State.settled_step (hs : s.settled = true) (h : step s = .next t) : t.settled = true := by
  obtain ⟨hp, hnone⟩ := State.settled_iff.mp hs
  rw [State.settled_iff]
  rcases step_cases h with ⟨-, -, rfl⟩ | ⟨w, -, hw, -⟩ | ⟨w, rest, ht, -, -⟩ | ⟨rest, ht, rfl⟩ |
    ⟨rest, ht, -, rfl⟩ | ⟨rest, ht, rfl⟩
  · exact ⟨by simpa using hp, State.any_isPresent_useBlockTurn.trans hnone⟩
  · simp [hp] at hw
  · simp [ht, Turn.isPresent] at hnone
  · exact ⟨hp, any_isPresent_of_turns ht hnone⟩
  · exact ⟨hp, any_isPresent_of_turns ht hnone⟩
  · exact ⟨rfl, any_isPresent_of_turns ht hnone⟩

/-- In a settled block nothing sets `RESP_VALID` (R20): there is no request to complete. -/
theorem State.respValid_step_of_settled (hs : s.settled = true) (hv : s.respValid = false) (h : step s = .next t) :
    t.respValid = false := by
  rw [← Bool.not_eq_true, respValidRule s t h,
    State.completes_of_pending_none (State.pending_eq_none_of_settled hs), hv]
  simp

/-- A settled block produces no response, however long it runs. -/
theorem observation_of_settled (hs : s.settled = true) (n : Nat) : observation n s = [] := by
  induction n generalizing s with
  | zero => rfl
  | succ n ih =>
    cases h : step s with
    | next t =>
      rw [observation_of_not_completes h (State.completes_of_pending_none (State.pending_eq_none_of_settled hs))]
      exact ih (State.settled_step hs h)
    | fault r => simp only [observation, collect, h]
    | refused r => simp only [observation, collect, h]

/-- A settled block without a valid response stays without one, and without a request in progress. -/
theorem run_of_settled {n : Nat} (hs : s.settled = true) (hv : s.respValid = false)
    (hrun : core.run n s = .next t) : t.respValid = false ∧ t.pending = none := by
  have hkeeps : t.settled = true ∧ t.respValid = false :=
    run_keeps (P := fun s => s.settled = true ∧ s.respValid = false)
      (fun _ _ ⟨hs, hv⟩ h => ⟨State.settled_step hs h, State.respValid_step_of_settled hs hv h⟩) ⟨hs, hv⟩ hrun
  obtain ⟨ht, htv⟩ := hkeeps
  exact ⟨htv, State.pending_eq_none_of_settled ht⟩

/-- Reset settles the block where the caller presents nothing after it. -/
theorem State.settled_resetBlock (hnone : s.turns.any Turn.isPresent = false) : s.resetBlock.settled = true :=
  State.settled_iff.mpr ⟨rfl, hnone⟩

/-! ### Polls of `RESP_VALID` -/

/-- A run of `k` polls hands over `RESP_VALID` `k` times and changes nothing else (R86). -/
theorem run_polls (k n : Nat) (ht : s.turns = List.replicate k .readValid ++ rest) :
    core.run (k + n) s = core.run n { s with
      turns := rest, reads := s.reads ++ List.replicate k (.valid s.respValid) } := by
  induction k generalizing s with
  | zero =>
    have hs : rest = s.turns := ht.symm
    simp [hs]
  | succ k ih =>
    rw [Nat.add_right_comm, run_of_next (step_readValid ht), ih rfl]
    simp [State.readValid, State.record, List.replicate_succ]

/-! ### A run that abandons a request (R80, R87) -/

theorem State.turns_of_resets (h : s.resets = true) : ∃ rest, s.turns = .reset :: rest := by
  unfold State.resets at h
  split at h
  next rest ht => exact ⟨rest, ht⟩
  next => cases h

/-- A reset with a request in progress abandons it, whatever follows. -/
theorem abandoned_succ_ne_nil (n : Nat) (hr : s.resets = true) (hp : s.pending.isSome = true) :
    abandoned (n + 1) s ≠ [] := by
  obtain ⟨rest, ht⟩ := State.turns_of_resets hr
  obtain ⟨w, hw⟩ := Option.isSome_iff_exists.mp hp
  rw [abandoned_of_resets (step_reset ht) hr, hw]
  simp

theorem runOver_of_abandoned {n : Nat} (h : abandoned n s ≠ []) : runOver n s = false := by
  unfold runOver
  split
  · simp [h]
  · rfl
  · rfl

end Sys2Proof.Machine

open Sys2Proof Sys2Proof.Machine

/-- Settles O30: the presented word is accepted, or it waits and the step is the COMPLETE of the other request. -/
theorem acceptStep : Obligations.AcceptStep := by
  intro s w rest ht
  refine ⟨fun hp => ⟨_, _, step_present_none ht hp⟩, fun q hp => ?_⟩
  rw [step_complete (State.blockMoves_of_waiting ht hp) hp, State.useBlockTurn_of_present ht, State.respond]

/-- Settles O31. -/
theorem completeStep : Obligations.CompleteStep := fun _ _ => step_complete

/-- Settles O33: a reset overwrites `PENDING`, and it settles the block when nothing is presented after it. -/
theorem resetAbandons : Obligations.ResetAbandons := by
  intro s rest n ht
  refine ⟨fun p => (step_reset (s := { s with pending := p }) ht).trans (step_reset ht).symm, fun hnone => ?_⟩
  have hsettled : (State.resetBlock { s with turns := rest }).settled = true := State.settled_resetBlock hnone
  constructor
  · cases n with
    | zero => rfl
    | succ n =>
      rw [observation_of_not_completes (step_reset ht) (State.completes_of_reset ht), observation_of_settled hsettled]
  · intro t hrun
    rw [run_of_next (step_reset ht)] at hrun
    exact run_of_settled hsettled rfl hrun

/-- Settles O43: of the steps only COMPLETE and RESET touch a request in progress. -/
theorem pendingHeld : Obligations.PendingHeld := by
  intro s t w h hp
  rcases step_cases h with ⟨-, hnone, -⟩ | ⟨q, hb, hq, rfl⟩ | ⟨q, rest, -, hnone, -⟩ | ⟨rest, -, rfl⟩ |
    ⟨rest, -, -, rfl⟩ | ⟨rest, ht, rfl⟩
  · simp [hp] at hnone
  · obtain rfl : w = q := Option.some.inj (hp.symm.trans hq)
    exact .inr (.inl ⟨by rw [State.completes_eq_of_blockMoves hb, hp, Option.isSome_some], rfl, rfl, rfl⟩)
  · simp [hp] at hnone
  · exact .inl hp
  · exact .inl hp
  · exact .inr (.inr ⟨State.resets_of_reset ht, rfl, rfl⟩)

/-- Settles O48: the polls read the 0 the invariant gives, and leave the request to the block's turn. -/
theorem pendingCompletes : Obligations.PendingCompletes := by
  intro s w k rest hinv hp ht hb
  have hv : s.respValid = false := hinv.pending_invalid (by simp [hp])
  have hcomplete := step_complete (w := w)
    (s := { s with turns := rest, reads := s.reads ++ List.replicate k (.valid s.respValid) }) hb hp
  exact ⟨_, (run_polls k 1 ht).trans (run_of_next hcomplete), rfl, rfl, rfl, by simp [hv]⟩

/-- Settles O53: what is abandoned in a part of the run is abandoned in the run. -/
theorem abandonedRunNotOver : Obligations.AbandonedRunNotOver := by
  intro m n s t hrun hr hp hlt
  obtain ⟨k, rfl⟩ := Nat.exists_eq_add_of_lt hlt
  refine runOver_of_abandoned ?_
  rw [abandoned, Nat.add_assoc, collect_add (k + 1) hrun]
  exact List.append_ne_nil_of_right_ne_nil _ (abandoned_succ_ne_nil k hr hp)

/-- Settles O29: both are the COMPLETE of the request word. -/
theorem stepRunsDecoded : Obligations.StepRunsDecoded := fun _ _ _ hb hp hd =>
  (step_complete hb hp).trans (exec_eq_respond hd _).symm

/-- Settles O32. -/
theorem resetStep : Obligations.ResetStep := fun _ _ ht => ⟨_, _, step_reset ht⟩

/-- Settles O34: the block's move with nothing in progress leaves the state as it is. -/
theorem idleStep : Obligations.IdleStep := fun _ hb hp =>
  (step_of_blockMoves hb).trans (moveBlock_none (by simpa using hp))
end
